-- ==== Sys2Proof/Word.lean ====
section
/-!
DEFINITION. The widths of CRC16HDR (spec/00_scope.md R6, R7): every value is an unsigned bit vector of a stated width.
-/

namespace Sys2Proof

/-- An 8-bit input byte or a byte lane (00_scope.md R6; 20_memory.md R41). -/
abbrev Byte := BitVec 8

/-- A 16-bit value: CRC, SEED, HDRCK and the 16-bit record fields (00_scope.md R6; 10_state.md R20). -/
abbrev Half := BitVec 16

/-- A 32-bit bus data word, `wdata` or `rdata` (00_scope.md R6, R10). -/
abbrev Word := BitVec 32

/-- The 8-bit byte offset inside the 256-byte window (30_encoding.md R61). -/
abbrev Offset := BitVec 8

/-- The 11-bit transaction descriptor `desc` (30_encoding.md R60, R61). -/
abbrev Descriptor := BitVec 11

end Sys2Proof
end

