-- ==== Sys2Proof/Config.lean ====
section
/-!
DEFINITION. What is fixed when the hardware is built (00_scope.md R6), and the one family of free values:
what the three registers hold between power-up and the first reset (70_reset_and_hazards.md R161).
-/

namespace Sys2Proof

/-- The elaboration parameters of 00_scope.md R6. No transaction and no reset changes them (R6;
70_reset_and_hazards.md R162). R6's text says six P_ values; its table, R121 and D7 list these five (log entry 3). -/
structure Params where
  deviceType        : Half
  deviceRev         : Half
  appVersion        : Word
  companionVersion1 : Half
  companionVersion2 : Half
  deriving DecidableEq, Repr

/-- The default parameter values (00_scope.md R6; 90_conflicts.md C4). -/
def Params.default : Params where
  deviceType        := 0xFFFF#16
  deviceRev         := 0xFFFF#16
  appVersion        := 0xFFFFFFFF#32
  companionVersion1 := 0x005A#16
  companionVersion2 := 0x0064#16

/-- `companion_len`: a constant, no parameter (00_scope.md R6; 41_header_serializer.md R124). -/
def companionLen : Half := 0x0002#16

/-- FREE VALUE (log entry 6). The value of a register that the spec calls unspecified: CRC, SEED and HDRCK after
power-up and before the first reset (70_reset_and_hazards.md R161; 60_exceptions.md R154). No body: nothing
constrains it. The argument is the model's counter `State.freeIdx`. -/
opaque Config.unspecifiedHalf : Nat → BitVec 16

end Sys2Proof
end

