-- ==== Sys2Proof/Machine/Operands.lean ====
section
/-!
DEFINITION. How a write picks its operand from `wdata` (30_encoding.md R62; 10_state.md R25 to R29), how a read's `rdata`
is assembled (R62), and the byte lanes (20_memory.md R41).
-/

namespace Sys2Proof.Machine

/-- CTRL's INIT bit, wdata[0] (10_state.md R25). -/
def initBit (w : Word) : Bool := w.getLsbD 0

/-- CTRL's LATCH bit, wdata[1] (10_state.md R25). -/
def latchBit (w : Word) : Bool := w.getLsbD 1

/-- SEED's field, wdata[15:0] (10_state.md R26). -/
def seedField (w : Word) : Half := w.extractLsb' 0 16

/-- DATA8's field, wdata[7:0] (10_state.md R28). -/
def byteField (w : Word) : Byte := w.extractLsb' 0 8

/-- Byte lane i of a data word is bits [8i+7:8i], i = 0 to 3 (20_memory.md R41). -/
def lane (i : Nat) (w : Word) : Byte := w.extractLsb' (8 * i) 8

/-- The four lanes of a word in feeding order, lane 0 first (10_state.md R29; 20_memory.md R41). -/
def lanes (w : Word) : List Byte := [lane 0 w, lane 1 w, lane 2 w, lane 3 w]

/-- The word whose lanes 0 to 3 are the four bytes: `b3<<24 | b2<<16 | b1<<8 | b0` (30_encoding.md R67). -/
def ofLanes (b0 b1 b2 b3 : Byte) : Word := b3 ++ b2 ++ b1 ++ b0

/-- `zext_32` of a 16-bit value (00_scope.md R8). -/
def zext32 (v : Half) : Word := v.setWidth 32

/-- `zext_16` of a byte (00_scope.md R8). -/
def zext16 (b : Byte) : Half := b.setWidth 16

/-- `{hi, lo}`: concatenation with `hi` in the high bits (00_scope.md R8). -/
def pack (hi lo : Half) : Word := hi ++ lo

/-- The two bytes of a 16-bit field, least significant first (20_memory.md R40). -/
def le16 (v : Half) : List Byte := [v.extractLsb' 0 8, v.extractLsb' 8 8]

/-- The four bytes of a 32-bit field, least significant first (20_memory.md R40). -/
def le32 (v : Word) : List Byte := [v.extractLsb' 0 8, v.extractLsb' 8 8, v.extractLsb' 16 8, v.extractLsb' 24 8]

end Sys2Proof.Machine
end

