-- ==== Sys2Proof/Machine/Crc.lean ====
section
/-!
DEFINITION. The update function of the CRC engine (40_crc_engine.md R80; 00_scope.md R11), the same function over
unbounded naturals with late truncation (R91), and the bitwise polynomial form of R94.
-/

namespace Sys2Proof.Machine

/-- `swap8(c) = {c[7:0], c[15:8]}` (00_scope.md R8). -/
def swap8 (c : Half) : Half := c.extractLsb' 0 8 ++ c.extractLsb' 8 8

/-- `crc_step`, the five-step update of 40_crc_engine.md R80. A shift of a 16-bit vector drops what leaves bit 15, which is
`trunc16` of the shift. -/
def crcStep (c : Half) (b : Byte) : Half :=
  let t1 := swap8 c
  let t2 := t1 ^^^ zext16 b
  let t3 := t2 ^^^ ((t2 &&& 0xFF#16) >>> 4)
  let t4 := t3 ^^^ ((t3 <<< 8) <<< 4)
  t4 ^^^ (((t4 &&& 0xFF#16) <<< 4) <<< 1)

/-- `crc_fold`: `crc_step` over the bytes, first to last (00_scope.md R11). -/
def crcFold (c : Half) (bs : List Byte) : Half := bs.foldl crcStep c

/-- The five steps of R80 on natural numbers with NO truncation at all (00_scope.md R8: "no bit is lost until a
truncation"): what 40_crc_engine.md R91 speaks of. -/
def crcStepUntruncated (c b : Nat) : Nat :=
  let t1 := ((c &&& 0xFF) <<< 8) ||| (c >>> 8)
  let t2 := t1 ^^^ b
  let t3 := t2 ^^^ ((t2 &&& 0xFF) >>> 4)
  let t4 := t3 ^^^ ((t3 <<< 8) <<< 4)
  t4 ^^^ (((t4 &&& 0xFF) <<< 4) <<< 1)

/-- One shift of the MSB-first bitwise update with polynomial 0x1021 (40_crc_engine.md R94). -/
def polyShift (c : Half) : Half := if c.getLsbD 15 then (c <<< 1) ^^^ 0x1021#16 else c <<< 1

/-- `bitwise_1021(c, b)` of 40_crc_engine.md R94: eight shifts after XORing the byte into the high half. -/
def bitwise1021 (c : Half) (b : Byte) : Half := (List.range 8).foldl (fun v _ => polyShift v) (c ^^^ (zext16 b <<< 8))

end Sys2Proof.Machine
end

