-- ==== Sys2Proof/Syntax.lean ====
section
/-!
DEFINITION. The transactions the host issues (30_encoding.md R60, R61), the fifteen operations of the opcode table
(R63), the assembler's forms (R66) and the pseudo-instructions (R67), as syntax.
-/

namespace Sys2Proof

/-- The SIZE field of a descriptor (30_encoding.md R61): 0b00, 0b01, 0b10 and the reserved 0b11. -/
inductive Size where
  | byte
  | half
  | word
  | reserved
  deriving DecidableEq, Repr

/-- A transaction as the host issues it (30_encoding.md R60, R66): a size, a direction and an offset, and, for a write
only, the data word. Every one of the 2048 descriptors can be issued, the illegal ones too. -/
inductive Txn where
  | read  (size : Size) (off : Offset)
  | write (size : Size) (off : Offset) (wdata : Word)
  deriving DecidableEq, Repr

/-- The kind of a BusError (00_scope.md R10; 60_exceptions.md R140): model bookkeeping, not host-visible. -/
inductive BusErrorKind where
  | badSize
  | misaligned
  | unmapped
  deriving DecidableEq, Repr

/-- The operations of 30_encoding.md R63, one constructor per row of spec/opcode_table.json. A write carries its data
word; WR_HDR carries also its register index `n` = OFF[3:2], 0 to 3 (checked by `Instr.wf`). -/
inductive Instr where
  | rdCtrl
  | wrCtrl (wdata : Word)
  | rdSeed
  | wrSeed (wdata : Word)
  | rdCrc
  | wrCrc (wdata : Word)
  | rdData8
  | wrData8 (wdata : Word)
  | rdData32
  | wrData32 (wdata : Word)
  | rdHdr0
  | rdHdr1
  | rdHdr2
  | rdHdr3
  | wrHdr (n : Nat) (wdata : Word)
  deriving DecidableEq, Repr

/-- The register names of the assembler (30_encoding.md R66). -/
inductive RegName where
  | ctrl
  | seed
  | crc
  | data8
  | data32
  | hdr0
  | hdr1
  | hdr2
  | hdr3
  deriving DecidableEq, Repr

/-- The pseudo-instructions of 30_encoding.md R67. Operands have the widths R67 bounds them to. -/
inductive Pseudo where
  | init
  | latch
  | latchInit
  | setSeed (s : Half)
  | feed (b : Byte)
  | feed4 (b0 b1 b2 b3 : Byte)
  | start (s : Option Half)
  | crc16 (s : Half) (bs : List Byte)
  | getHdr
  deriving DecidableEq, Repr

/-- A line of assembler (30_encoding.md R66, R67). In the numeric forms the suffix .B, .H, .W or .X gives the size; a
bracketed offset without suffix has no suffix here. -/
inductive AsmLine where
  | rd (reg : RegName)
  | wr (reg : RegName) (imm : Word)
  | rdAt (suffix : Option Size) (off : Offset)
  | wrAt (suffix : Option Size) (off : Offset) (imm : Word)
  | pseudo (p : Pseudo)
  deriving DecidableEq, Repr

end Sys2Proof
end

