-- ==== Sys2Proof/WellFormed.lean ====
section
/-!
DEFINITION. The checks that the types do not already carry: the index of WR_HDR (30_encoding.md R63), and the window's
base address (00_scope.md R6; 20_memory.md R47).
-/

namespace Sys2Proof

/-- The largest register index of WR_HDR is 3: `n` is the two-bit field OFF[3:2] (30_encoding.md R63). -/
def Instr.wf : Instr → Bool
  | .rdCtrl     => true
  | .wrCtrl _   => true
  | .rdSeed     => true
  | .wrSeed _   => true
  | .rdCrc      => true
  | .wrCrc _    => true
  | .rdData8    => true
  | .wrData8 _  => true
  | .rdData32   => true
  | .wrData32 _ => true
  | .rdHdr0     => true
  | .rdHdr1     => true
  | .rdHdr2     => true
  | .rdHdr3     => true
  | .wrHdr n _  => decide (n < 4)

/-- BASE is left to the platform and "must be a multiple of 256" (20_memory.md R47; D21). -/
def baseWf (base : Nat) : Bool := base % 256 == 0

end Sys2Proof
end

