-- ==== Sys2Proof/Decode.lean ====
section
/-!
DEFINITION. The descriptor's fields (30_encoding.md R61), the opcode table (R63), the decoder with the classification of
illegal descriptors (R64; 60_exceptions.md R141, R142, R144), the encoder, and the bit layout of a whole transaction
that `decodeTableWord` reads.
-/

namespace Sys2Proof

/-- SIZE as its two bits (30_encoding.md R61). -/
def Size.bits : Size → BitVec 2
  | .byte     => 0b00#2
  | .half     => 0b01#2
  | .word     => 0b10#2
  | .reserved => 0b11#2

/-- The size two bits name (30_encoding.md R61). -/
def Size.ofBits (b : BitVec 2) : Size :=
  if b = 0b00#2 then .byte else if b = 0b01#2 then .half else if b = 0b10#2 then .word else .reserved

/-- The number of bytes of a transaction of this size (00_scope.md R10); a reserved size names none. -/
def Size.bytes : Size → Option Nat
  | .byte     => some 1
  | .half     => some 2
  | .word     => some 4
  | .reserved => none

/-- The size field of a transaction. -/
def Txn.size : Txn → Size
  | .read z _    => z
  | .write z _ _ => z

/-- The offset field of a transaction. -/
def Txn.off : Txn → Offset
  | .read _ o    => o
  | .write _ o _ => o

/-- The direction: WE = 0 (30_encoding.md R61). -/
def Txn.isRead : Txn → Bool
  | .read _ _    => true
  | .write _ _ _ => false

/-- The WE bit (30_encoding.md R61). -/
def Txn.weBit : Txn → BitVec 1
  | .read _ _    => 0#1
  | .write _ _ _ => 1#1

/-- The data word of a write; a read carries none (30_encoding.md R60). -/
def Txn.wdata : Txn → Option Word
  | .read _ _    => none
  | .write _ _ w => some w

/-- `{SIZE, WE, OFF}` (30_encoding.md R61). -/
def descOf (z : Size) (we : BitVec 1) (o : Offset) : Descriptor := z.bits ++ we ++ o

/-- The descriptor of a transaction (30_encoding.md R61). -/
def Txn.desc (t : Txn) : Descriptor := descOf t.size t.weBit t.off

/-- SIZE, bits [10:9] of a descriptor (30_encoding.md R61). -/
def descSize (d : Descriptor) : Size := Size.ofBits (d.extractLsb' 9 2)

/-- WE, bit [8] of a descriptor (30_encoding.md R61). -/
def descWe (d : Descriptor) : Bool := d.getLsbD 8

/-- OFF, bits [7:0] of a descriptor (30_encoding.md R61). -/
def descOff (d : Descriptor) : Offset := d.extractLsb' 0 8

/-- The transaction with descriptor `d`, whose data word is `w` if it is a write (30_encoding.md R60, R61). -/
def Txn.ofDesc (d : Descriptor) (w : Word) : Txn :=
  if descWe d then .write (descSize d) (descOff d) w else .read (descSize d) (descOff d)

/-- One row of the opcode table: a descriptor belongs to it if its bits under `mask` are `value`. -/
structure Row where
  mnemonic : String
  mask     : Descriptor
  value    : Descriptor
  deriving DecidableEq, Repr

/-- The table of 30_encoding.md R63: fourteen rows with mask 0x7FF, and WR_HDR with mask 0x7F3. -/
def opcodeTable : List Row :=
  [ ⟨"RD_CTRL",   0x7FF#11, 0x400#11⟩, ⟨"WR_CTRL",   0x7FF#11, 0x500#11⟩,
    ⟨"RD_SEED",   0x7FF#11, 0x404#11⟩, ⟨"WR_SEED",   0x7FF#11, 0x504#11⟩,
    ⟨"RD_CRC",    0x7FF#11, 0x408#11⟩, ⟨"WR_CRC",    0x7FF#11, 0x508#11⟩,
    ⟨"RD_DATA8",  0x7FF#11, 0x40C#11⟩, ⟨"WR_DATA8",  0x7FF#11, 0x50C#11⟩ ] ++
  [ ⟨"RD_DATA32", 0x7FF#11, 0x410#11⟩, ⟨"WR_DATA32", 0x7FF#11, 0x510#11⟩,
    ⟨"RD_HDR0",   0x7FF#11, 0x420#11⟩, ⟨"RD_HDR1",   0x7FF#11, 0x424#11⟩,
    ⟨"RD_HDR2",   0x7FF#11, 0x428#11⟩, ⟨"RD_HDR3",   0x7FF#11, 0x42C#11⟩,
    ⟨"WR_HDR",    0x7F3#11, 0x520#11⟩ ]

/-- Does a descriptor belong to a row of the table? -/
def Row.matches (r : Row) (d : Descriptor) : Bool := d &&& r.mask == r.value

/-- What the decoder answers: an operation, or the kind of BusError by which the descriptor is rejected. -/
inductive Decoded where
  | instr (i : Instr)
  | illegal (kind : BusErrorKind)
  deriving DecidableEq, Repr

/-- The kind of an illegal descriptor: the first of BAD_SIZE, MISALIGNED and UNMAPPED that applies
(60_exceptions.md R141, R142, R144). -/
def illegalKind (d : Descriptor) : BusErrorKind :=
  if descSize d ≠ .word then .badSize
  else if d.extractLsb' 0 2 ≠ 0#2 then .misaligned
  else .unmapped

/-- The decode procedure of 30_encoding.md R63: first the masked test for WR_HDR, then the fourteen single values; every
other descriptor is illegal (R64). `w` is the data word of a write. -/
def decodeDesc (d : Descriptor) (w : Word) : Decoded :=
  if d &&& 0x7F3#11 = 0x520#11 then .instr (.wrHdr (d.extractLsb' 2 2).toNat w)
  else if d = 0x400#11 then .instr .rdCtrl
  else if d = 0x500#11 then .instr (.wrCtrl w)
  else if d = 0x404#11 then .instr .rdSeed
  else if d = 0x504#11 then .instr (.wrSeed w)
  else if d = 0x408#11 then .instr .rdCrc
  else if d = 0x508#11 then .instr (.wrCrc w)
  else if d = 0x40C#11 then .instr .rdData8
  else if d = 0x50C#11 then .instr (.wrData8 w)
  else if d = 0x410#11 then .instr .rdData32
  else if d = 0x510#11 then .instr (.wrData32 w)
  else if d = 0x420#11 then .instr .rdHdr0
  else if d = 0x424#11 then .instr .rdHdr1
  else if d = 0x428#11 then .instr .rdHdr2
  else if d = 0x42C#11 then .instr .rdHdr3
  else .illegal (illegalKind d)

/-- Decoding a transaction. A read's descriptor selects a read, so the word that stands in for its absent data word is
never used. -/
def decode : Txn → Decoded
  | .read z o    => decodeDesc (descOf z 0#1 o) 0#32
  | .write z o w => decodeDesc (descOf z 1#1 o) w

/-- The descriptor of an operation (30_encoding.md R63; WR_HDR is 0x520 + 4n). -/
def encodeDesc : Instr → Descriptor
  | .rdCtrl     => 0x400#11
  | .wrCtrl _   => 0x500#11
  | .rdSeed     => 0x404#11
  | .wrSeed _   => 0x504#11
  | .rdCrc      => 0x408#11
  | .wrCrc _    => 0x508#11
  | .rdData8    => 0x40C#11
  | .wrData8 _  => 0x50C#11
  | .rdData32   => 0x410#11
  | .wrData32 _ => 0x510#11
  | .rdHdr0     => 0x420#11
  | .rdHdr1     => 0x424#11
  | .rdHdr2     => 0x428#11
  | .rdHdr3     => 0x42C#11
  | .wrHdr n _  => 0x520#11 + 4#11 * BitVec.ofNat 11 n

/-- The data word of an operation, 0 for a read, which carries none (30_encoding.md R60). -/
def Instr.wdata : Instr → Word
  | .rdCtrl     => 0#32
  | .wrCtrl w   => w
  | .rdSeed     => 0#32
  | .wrSeed w   => w
  | .rdCrc      => 0#32
  | .wrCrc w    => w
  | .rdData8    => 0#32
  | .wrData8 w  => w
  | .rdData32   => 0#32
  | .wrData32 w => w
  | .rdHdr0     => 0#32
  | .rdHdr1     => 0#32
  | .rdHdr2     => 0#32
  | .rdHdr3     => 0#32
  | .wrHdr _ w  => w

/-- The encoder: the transaction of an operation (30_encoding.md R60, R63). -/
def encode (i : Instr) : Txn := Txn.ofDesc (encodeDesc i) i.wdata

/-- The transaction that the low `nbits` bits of `w` write out (DESIGN CHOICE, log entry 8): the descriptor in bits
[10:0] of a 16-bit unit whose five upper bits are 0, then, for a write, the data word in bits [47:16]. A bit that has no
place in that layout must be 0. `nbits` is not compared with the length that WE fixes (30_encoding.md R65): bits from
`nbits` up read as 0, so a shorter string with WE = 1 is a write whose missing data bits are 0, and a longer string with
WE = 0 is a read if its rest is 0. R65 says nothing of a string of another length; this is the model's choice too. -/
def txnOfBits (nbits w : Nat) : Option Txn :=
  let v := w % 2 ^ nbits
  let first := v % 2 ^ 16
  let rest := v / 2 ^ 16
  if 2 ^ 11 ≤ first then none
  else
    match Txn.ofDesc (BitVec.ofNat 11 first) (BitVec.ofNat 32 rest) with
    | .read z o    => if rest = 0 then some (.read z o) else none
    | .write z o d => if rest < 2 ^ 32 then some (.write z o d) else none

/-- The bits of a transaction in the layout of `txnOfBits`, and how many there are: 16 for a read, 48 for a write
(30_encoding.md R65: the length is fixed by WE alone). -/
def Txn.toBits : Txn → Nat × Nat
  | .read z o    => (16, (Txn.read z o).desc.toNat)
  | .write z o w => (48, (Txn.write z o w).desc.toNat + 2 ^ 16 * w.toNat)

/-- The operation the decoder reads from a table word (the host's interface): `none` where it refuses. -/
def decodeTableWord (nbits w : Nat) : Option Instr :=
  match txnOfBits nbits w with
  | none   => none
  | some t =>
    match decode t with
    | .instr i   => some i
    | .illegal _ => none

end Sys2Proof
end

