-- ==== Sys2Proof/Machine/State.lean ====
section
/-!
DEFINITION. The state of CRC16HDR (10_state.md R20 to R36; 00_scope.md R6; 70_reset_and_hazards.md R160, R161), the
events that reach it and the responses it gives (00_scope.md R10), and its outcomes.
-/

namespace Sys2Proof.Machine

/-- The response code of a transaction (00_scope.md R10). -/
inductive Resp where
  | okay
  | error
  deriving DecidableEq, Repr

/-- The response to one transaction (00_scope.md R10; 30_encoding.md R60; 60_exceptions.md R140). A read yields `rdata`;
an ERROR carries the kind, a label that the host does not see and no step reads. -/
inductive Response where
  | readOkay (rdata : Word)
  | writeOkay
  | readError (kind : BusErrorKind)
  | writeError (kind : BusErrorKind)
  deriving DecidableEq, Repr

/-- What reaches the block from outside, one event a step: a bus transaction (00_scope.md R10), a reset
(70_reset_and_hazards.md R162), or power-up, after which the registers are unspecified until reset (R161;
60_exceptions.md R154). -/
inductive HostEvent where
  | transaction (t : Txn)
  | reset
  | powerUp
  deriving DecidableEq, Repr

/-- The machine. `crc`, `seed` and `hdrck` are the three storage elements (10_state.md R20). `resetSeen` says that a reset
has been applied since power-up (70_reset_and_hazards.md R161). `params` is the configuration (00_scope.md R6), carried
here because `step` takes no other argument (log entry 3). `pending` and `responses` are the host's side of the bus,
oldest first (log entries 1 and 2). `freeIdx` numbers the free values (log entry 6). -/
structure State where
  crc       : Half
  seed      : Half
  hdrck     : Half
  resetSeen : Bool
  params    : Params
  pending   : List HostEvent
  responses : List Response
  freeIdx   : Nat
  deriving DecidableEq, Repr

/-- Why the machine stops with a fault: never. The source gives the engine "Failure modes: none" (60_exceptions.md R143),
and a BusError is a response after which the block goes on (R145, R146; log entry 4). -/
inductive Fault where
  deriving DecidableEq, Repr

/-- Why a step has no meaning. -/
inductive Refusal where
  /-- Raised by `exec` for an instruction without a meaning in this model; safe. No arm of this model raises it. -/
  | notModelled (mnemonic : String)
  /-- Raised for every transaction issued after power-up and before the first reset: "A model treats a transaction
  issued before the first reset as refused" (70_reset_and_hazards.md R161); safe. -/
  | beforeFirstReset
  deriving DecidableEq, Repr

/-- The value of CRC, SEED and HDRCK after reset (70_reset_and_hazards.md R160). -/
def resetHalf : Half := 0xFFFF#16

/-- The machine right after reset (70_reset_and_hazards.md R160), built with the default parameters (00_scope.md R6), with
no event pending and no response given (log entries 1, 2, 6). -/
def State.reset : State where
  crc       := resetHalf
  seed      := resetHalf
  hdrck     := resetHalf
  resetSeen := true
  params    := Params.default
  pending   := []
  responses := []
  freeIdx   := 0

end Sys2Proof.Machine
end

