-- ==== Sys2Proof/Machine/Flags.lean ====
section
/-!
DEFINITION. The block has no status flags and no condition codes (10_state.md R33). The one thing a transaction reports
is its response; this file holds what the host reads from it (00_scope.md R10; 60_exceptions.md R140).
-/

namespace Sys2Proof.Machine

/-- The code on the bus: OKAY = 0, ERROR = 1 (00_scope.md R10; 30_encoding.md R60). -/
def Resp.code : Resp → Nat
  | .okay  => 0
  | .error => 1

/-- `resp` of a response (00_scope.md R10). -/
def Response.resp : Response → Resp
  | .readOkay _   => .okay
  | .writeOkay    => .okay
  | .readError _  => .error
  | .writeError _ => .error

/-- `rdata` of a response: a read yields one, 0 when it ends in ERROR (00_scope.md R10; 60_exceptions.md R140). -/
def Response.rdata : Response → Option Word
  | .readOkay w   => some w
  | .writeOkay    => none
  | .readError _  => some 0#32
  | .writeError _ => none

/-- All that the host sees of a response: `resp` and `rdata`, not the kind (60_exceptions.md R140). -/
def Response.hostView (r : Response) : Resp × Option Word := (r.resp, r.rdata)

end Sys2Proof.Machine
end

