-- ==== Sys2Proof/Machine/Ops.lean ====
section
/-!
DEFINITION. The operations every meaning is written over: giving a response, the gate before the first reset, the OKAY
completions, BusError (the only exception, 60_exceptions.md R140), reset and power-up.
-/

namespace Sys2Proof.Machine

/-- The block answers a transaction: the response joins the list the host has received (00_scope.md R10). -/
def State.respond (s : State) (r : Response) : State := { s with responses := s.responses ++ [r] }

/-- The gate of 70_reset_and_hazards.md R161: a transaction before the first reset is refused; after it, the block
performs `effect` as one indivisible step (20_memory.md R45). -/
def accept (s : State) (effect : State → State) : Host.Outcome State Fault Refusal :=
  if s.resetSeen then .next (effect s) else .refused .beforeFirstReset

/-- A read that completes: `rdata` is computed from the state, `resp := OKAY`, no state register is written
(20_memory.md R46). -/
def completeRead (rdata : State → Word) (s : State) : Host.Outcome State Fault Refusal :=
  accept s fun s => s.respond (.readOkay (rdata s))

/-- A write that completes: its effect on the registers, then `resp := OKAY`. -/
def completeWrite (effect : State → State) (s : State) : Host.Outcome State Fault Refusal :=
  accept s fun s => (effect s).respond .writeOkay

/-- `raise BusError(kind)` (00_scope.md R10; 60_exceptions.md R140, R145): the response is ERROR, a read's rdata is 0, no
register changes. There is no trap to enter and none to return from (R145, R146): the next transaction runs normally. -/
def raiseBusError (kind : BusErrorKind) (isRead : Bool) (s : State) : Host.Outcome State Fault Refusal :=
  accept s fun s => s.respond (if isRead then .readError kind else .writeError kind)

/-- A reset (70_reset_and_hazards.md R160, R162): the three registers take their reset values; the parameters stay, and
so do the host's list of events and the responses already given (log entry 9). -/
def State.applyReset (s : State) : State :=
  { s with crc := resetHalf, seed := resetHalf, hdrck := resetHalf, resetSeen := true }

/-- Power-up (60_exceptions.md R154; 70_reset_and_hazards.md R161): the three registers hold unspecified values, free values
here, until the next reset (log entry 6). -/
def State.powerUp (s : State) : State :=
  { s with
    crc       := Config.unspecifiedHalf s.freeIdx
    seed      := Config.unspecifiedHalf (s.freeIdx + 1)
    hdrck     := Config.unspecifiedHalf (s.freeIdx + 2)
    resetSeen := false
    freeIdx   := s.freeIdx + 3 }

/-- The host issues events: they join the end of the pending list, in issue order (20_memory.md R45). -/
def State.issue (s : State) (es : List HostEvent) : State := { s with pending := s.pending ++ es }

/-- The block built with parameters `p`, fresh out of reset (00_scope.md R6; 70_reset_and_hazards.md R160). -/
def State.elaborated (p : Params) : State := { State.reset with params := p }

end Sys2Proof.Machine
end

