-- ==== Sys2Proof/Machine/CrcEngine.lean ====
section
/-!
DEFINITION. The operations of the CRC engine: CTRL, SEED, CRC, DATA8 and DATA32 (40_crc_engine.md R81 to R90).
-/

namespace Sys2Proof.Machine

/-- RD_CTRL (40_crc_engine.md R81): reads 0; CTRL has no storage. -/
def execRdCtrl (s : State) : Host.Outcome State Fault Refusal := completeRead (fun _ => 0#32) s

/-- WR_CTRL (40_crc_engine.md R82; 41_header_serializer.md R120): LATCH copies the CRC from before the transaction into
HDRCK, INIT copies SEED into CRC, both in one step. -/
def execWrCtrl (wdata : Word) (s : State) : Host.Outcome State Fault Refusal :=
  completeWrite
    (fun s => { s with
      hdrck := if latchBit wdata then s.crc else s.hdrck
      crc   := if initBit wdata then s.seed else s.crc }) s

/-- RD_SEED (40_crc_engine.md R83). -/
def execRdSeed (s : State) : Host.Outcome State Fault Refusal := completeRead (fun s => zext32 s.seed) s

/-- WR_SEED (40_crc_engine.md R84): SEED <- wdata[15:0]; CRC does not change. -/
def execWrSeed (wdata : Word) (s : State) : Host.Outcome State Fault Refusal :=
  completeWrite (fun s => { s with seed := seedField wdata }) s

/-- RD_CRC (40_crc_engine.md R85). -/
def execRdCrc (s : State) : Host.Outcome State Fault Refusal := completeRead (fun s => zext32 s.crc) s

/-- WR_CRC (40_crc_engine.md R90): ignored, OKAY. -/
def execWrCrc (_wdata : Word) (s : State) : Host.Outcome State Fault Refusal := completeWrite (fun s => s) s

/-- RD_DATA8 (40_crc_engine.md R87): reads 0, feeds nothing. -/
def execRdData8 (s : State) : Host.Outcome State Fault Refusal := completeRead (fun _ => 0#32) s

/-- WR_DATA8 (40_crc_engine.md R86): feed the byte wdata[7:0]. -/
def execWrData8 (wdata : Word) (s : State) : Host.Outcome State Fault Refusal :=
  completeWrite (fun s => { s with crc := crcStep s.crc (byteField wdata) }) s

/-- RD_DATA32 (40_crc_engine.md R89): reads 0, feeds nothing. -/
def execRdData32 (s : State) : Host.Outcome State Fault Refusal := completeRead (fun _ => 0#32) s

/-- WR_DATA32 (40_crc_engine.md R88): feed the four lanes, lane 0 first, as one step. -/
def execWrData32 (wdata : Word) (s : State) : Host.Outcome State Fault Refusal :=
  completeWrite (fun s => { s with crc := crcFold s.crc (lanes wdata) }) s

end Sys2Proof.Machine
end

