-- ==== Sys2Proof/Machine/Header.lean ====
section
/-!
DEFINITION. The operations of the header serializer (41_header_serializer.md R122 to R127), the words they read, and the
16-byte record (R121, R126).
-/

namespace Sys2Proof.Machine

/-- HDR0 = {P_DEVICE_REV, P_DEVICE_TYPE} (41_header_serializer.md R122). -/
def hdr0Word (s : State) : Word := pack s.params.deviceRev s.params.deviceType

/-- HDR1 = P_APP_VERSION (41_header_serializer.md R123). -/
def hdr1Word (s : State) : Word := s.params.appVersion

/-- HDR2 = {P_COMPANION_VERSION_1, 0x0002} (41_header_serializer.md R124). -/
def hdr2Word (s : State) : Word := pack s.params.companionVersion1 companionLen

/-- HDR3 = {HDRCK, P_COMPANION_VERSION_2}: the latched checksum, not the live CRC (41_header_serializer.md R125). -/
def hdr3Word (s : State) : Word := pack s.hdrck s.params.companionVersion2

/-- RD_HDR0 (41_header_serializer.md R122). -/
def execRdHdr0 (s : State) : Host.Outcome State Fault Refusal := completeRead hdr0Word s

/-- RD_HDR1 (41_header_serializer.md R123). -/
def execRdHdr1 (s : State) : Host.Outcome State Fault Refusal := completeRead hdr1Word s

/-- RD_HDR2 (41_header_serializer.md R124). -/
def execRdHdr2 (s : State) : Host.Outcome State Fault Refusal := completeRead hdr2Word s

/-- RD_HDR3 (41_header_serializer.md R125). -/
def execRdHdr3 (s : State) : Host.Outcome State Fault Refusal := completeRead hdr3Word s

/-- WR_HDR (41_header_serializer.md R127): ignored for every n, OKAY. -/
def execWrHdr (_n : Nat) (_wdata : Word) (s : State) : Host.Outcome State Fault Refusal := completeWrite (fun s => s) s

/-- The header record, field by field in the table's order, each field least significant byte first, with no padding
(41_header_serializer.md R121; 20_memory.md R40). -/
def recordBytes (p : Params) (checksum : Half) : List Byte :=
  le16 p.deviceType ++ le16 p.deviceRev ++ le32 p.appVersion ++ le16 companionLen ++
    le16 p.companionVersion1 ++ le16 p.companionVersion2 ++ le16 checksum

end Sys2Proof.Machine
end

