-- ==== Sys2Proof/Machine/Dispatch.lean ====
section
/-! DEFINITION. One arm per operation of the opcode table (30_encoding.md R63). -/

namespace Sys2Proof.Machine

/-- The meaning of each operation, at a state from whose pending list the transaction has been taken. -/
def exec (i : Instr) (s : State) : Host.Outcome State Fault Refusal :=
  match i with
  | .rdCtrl => Sys2Proof.Machine.execRdCtrl s
  | .wrCtrl wdata => Sys2Proof.Machine.execWrCtrl wdata s
  | .rdSeed => Sys2Proof.Machine.execRdSeed s
  | .wrSeed wdata => Sys2Proof.Machine.execWrSeed wdata s
  | .rdCrc => Sys2Proof.Machine.execRdCrc s
  | .wrCrc wdata => Sys2Proof.Machine.execWrCrc wdata s
  | .rdData8 => Sys2Proof.Machine.execRdData8 s
  | .wrData8 wdata => Sys2Proof.Machine.execWrData8 wdata s
  | .rdData32 => Sys2Proof.Machine.execRdData32 s
  | .wrData32 wdata => Sys2Proof.Machine.execWrData32 wdata s
  | .rdHdr0 => Sys2Proof.Machine.execRdHdr0 s
  | .rdHdr1 => Sys2Proof.Machine.execRdHdr1 s
  | .rdHdr2 => Sys2Proof.Machine.execRdHdr2 s
  | .rdHdr3 => Sys2Proof.Machine.execRdHdr3 s
  | .wrHdr n wdata => Sys2Proof.Machine.execWrHdr n wdata s

end Sys2Proof.Machine
end

