-- ==== Sys2Proof/Machine/Perform.lean ====
section
/-!
DEFINITION. Performing one event: a transaction is decoded and performed, or ends in BusError (30_encoding.md R63, R64;
60_exceptions.md R140); a reset and a power-up act on the registers (70_reset_and_hazards.md R160, R161).
-/

namespace Sys2Proof.Machine

/-- One transaction, at the state from whose pending list it has been taken. -/
def performTransaction (t : Txn) (s : State) : Host.Outcome State Fault Refusal :=
  match decode t with
  | .instr i      => exec i s
  | .illegal kind => raiseBusError kind t.isRead s

/-- One event of any kind. -/
def performEvent (e : HostEvent) (s : State) : Host.Outcome State Fault Refusal :=
  match e with
  | .transaction t => performTransaction t s
  | .reset         => .next s.applyReset
  | .powerUp       => .next s.powerUp

/-- The block takes the oldest pending event; with none pending it idles: nothing in it advances by itself
(10_state.md R32, R36; log entry 1). -/
def performNext (s : State) : Host.Outcome State Fault Refusal :=
  match s.pending with
  | []      => .next s
  | e :: es => performEvent e { s with pending := es }

/-- The host issues, ahead of everything pending, the transaction that a table word writes out; a word that writes out
none is not issued (log entry 8). -/
def issueTableWord (s : State) (nbits w : Nat) : State :=
  match txnOfBits nbits w with
  | some t => { s with pending := .transaction t :: s.pending }
  | none   => s

end Sys2Proof.Machine
end

