-- ==== Sys2Proof/Machine/Step.lean ====
section
/-! DEFINITION. The step: one event of the host's, performed whole (20_memory.md R45). -/

namespace Sys2Proof.Machine

/-- One step (20_memory.md R45; 70_reset_and_hazards.md R162). -/
def step (s : State) : Host.Outcome State Fault Refusal := performNext s

/-- `s` with the transaction of a table word as the next one the block performs: this stands for the host issuing it
(log entry 1). -/
def State.withFetchWord (s : State) (nbits w : Nat) : State := issueTableWord s nbits w

end Sys2Proof.Machine
end

