-- ==== Sys2Proof/Machine/Bus.lean ====
section
/-!
DEFINITION. The bus seen from the host's side (00_scope.md R10): an access at an address becomes a transaction of the block
when the address lies in the 256-byte window at BASE (R6; 20_memory.md R47; 30_encoding.md R61). BASE is an argument
(D21), an address a natural number (log entry 7).
-/

namespace Sys2Proof.Machine

/-- The offset of an address in the window at `base`; none outside the window. -/
def windowOffset (base addr : Nat) : Option Offset :=
  if base ≤ addr ∧ addr < base + 256 then some (BitVec.ofNat 8 (addr - base)) else none

/-- `MemRead(addr, n)` (00_scope.md R10): the transaction it is for this block, if its address is in the window. -/
def memRead (base addr : Nat) (size : Size) : Option Txn :=
  (windowOffset base addr).map fun off => .read size off

/-- `MemWrite(addr, n, wdata)` (00_scope.md R10). -/
def memWrite (base addr : Nat) (size : Size) (wdata : Word) : Option Txn :=
  (windowOffset base addr).map fun off => .write size off wdata

end Sys2Proof.Machine
end

