-- ==== Sys2Proof/Machine/Assembler.lean ====
section
/-!
DEFINITION. The assembler: what the forms of 30_encoding.md R66 and the pseudo-instructions of R67 stand for, and how a
line is read from text.
-/

namespace Sys2Proof.Machine

/-- The offset a register name stands for (10_state.md R24). -/
def regOffset : RegName → Offset
  | .ctrl   => 0x00#8
  | .seed   => 0x04#8
  | .crc    => 0x08#8
  | .data8  => 0x0C#8
  | .data32 => 0x10#8
  | .hdr0   => 0x20#8
  | .hdr1   => 0x24#8
  | .hdr2   => 0x28#8
  | .hdr3   => 0x2C#8

/-- `RD <reg>`: "The named form always means SIZE = 0b10" (30_encoding.md R66). -/
def rdReg (r : RegName) : Txn := .read .word (regOffset r)

/-- `WR <reg>, <imm32>` (30_encoding.md R66). -/
def wrReg (r : RegName) (imm : Word) : Txn := .write .word (regOffset r) imm

/-- `START s`, and `START` with no seed, which is seed 0xFFFF (30_encoding.md R67). -/
def expandStart (s : Option Half) : List Txn := [wrReg .seed (zext32 (s.getD 0xFFFF#16)), wrReg .ctrl 0x1#32]

/-- `FEED b` (30_encoding.md R67). -/
def feedTxn (b : Byte) : Txn := wrReg .data8 (b.setWidth 32)

/-- The expansion of a pseudo-instruction (30_encoding.md R67). -/
def expandPseudo : Pseudo → List Txn
  | .init              => [wrReg .ctrl 0x1#32]
  | .latch             => [wrReg .ctrl 0x2#32]
  | .latchInit         => [wrReg .ctrl 0x3#32]
  | .setSeed s         => [wrReg .seed (zext32 s)]
  | .feed b            => [feedTxn b]
  | .feed4 b0 b1 b2 b3 => [wrReg .data32 (ofLanes b0 b1 b2 b3)]
  | .start s           => expandStart s
  | .crc16 s bs        => expandStart (some s) ++ bs.map feedTxn ++ [wrReg .ctrl 0x2#32]
  | .getHdr            => [rdReg .hdr0, rdReg .hdr1, rdReg .hdr2, rdReg .hdr3]

/-- The transactions of a line, in issue order (30_encoding.md R66, R67). A bracketed offset without suffix is a 4-byte
access. -/
def assembleLine : AsmLine → List Txn
  | .rd r         => [rdReg r]
  | .wr r imm     => [wrReg r imm]
  | .rdAt z o     => [.read (z.getD .word) o]
  | .wrAt z o imm => [.write (z.getD .word) o imm]
  | .pseudo p     => expandPseudo p

/-- "A program is a list of transactions in issue order" (30_encoding.md R66). -/
def assemble (ls : List AsmLine) : List Txn := ls.flatMap assembleLine

/-! ### Reading a line of text (log entry 10) -/

/-- A hexadecimal digit's value, either case. -/
def hexDigit (c : Char) : Option Nat :=
  let n := c.toNat
  if 48 ≤ n ∧ n ≤ 57 then some (n - 48)
  else if 65 ≤ n ∧ n ≤ 70 then some (n - 55)
  else if 97 ≤ n ∧ n ≤ 102 then some (n - 87)
  else none

/-- The digits' number in a base, continued from `acc`; none on a character that is no digit of the base. -/
def readDigits (base acc : Nat) : List Char → Option Nat
  | []      => some acc
  | c :: cs =>
    match hexDigit c with
    | some d => if d < base then readDigits base (acc * base + d) cs else none
    | none   => none

/-- A number: hexadecimal when prefixed 0x (00_scope.md R8), else decimal. -/
def readNat : List Char → Option Nat
  | []             => none
  | '0' :: 'x' :: [] => none
  | '0' :: 'x' :: cs => readDigits 16 0 cs
  | cs             => readDigits 10 0 cs

/-- A number that fits in `w` bits. -/
def readBits (w : Nat) (cs : List Char) : Option (BitVec w) :=
  match readNat cs with
  | some n => if n < 2 ^ w then some (BitVec.ofNat w n) else none
  | none   => none

/-- A bracketed offset `[0xNN]` (30_encoding.md R66). -/
def readOffset : List Char → Option Offset
  | '[' :: cs =>
    match cs.reverse with
    | ']' :: ds => readBits 8 ds.reverse
    | _         => none
  | _         => none

/-- The characters cut at every occurrence of `sep`. -/
def cutAt (sep : Char) : List Char → List (List Char)
  | []      => [[]]
  | c :: cs =>
    if c = sep then [] :: cutAt sep cs
    else
      match cutAt sep cs with
      | []      => [[c]]
      | w :: ws => (c :: w) :: ws

/-- A register name (30_encoding.md R66). -/
def readReg (cs : List Char) : Option RegName :=
  if cs = ['C', 'T', 'R', 'L'] then some .ctrl
  else if cs = ['S', 'E', 'E', 'D'] then some .seed
  else if cs = ['C', 'R', 'C'] then some .crc
  else if cs = ['D', 'A', 'T', 'A', '8'] then some .data8
  else if cs = ['D', 'A', 'T', 'A', '3', '2'] then some .data32
  else if cs = ['H', 'D', 'R', '0'] then some .hdr0
  else if cs = ['H', 'D', 'R', '1'] then some .hdr1
  else if cs = ['H', 'D', 'R', '2'] then some .hdr2
  else if cs = ['H', 'D', 'R', '3'] then some .hdr3
  else none

/-- A size suffix: none, .B, .H, .W or .X (30_encoding.md R66). -/
def readSuffix (cs : List Char) : Option (Option Size) :=
  if cs = [] then some none
  else if cs = ['.', 'B'] then some (some .byte)
  else if cs = ['.', 'H'] then some (some .half)
  else if cs = ['.', 'W'] then some (some .word)
  else if cs = ['.', 'X'] then some (some .reserved)
  else none

/-- A read line's operand: a register name (never with a suffix) or a bracketed offset. -/
def readRd (suffix : Option Size) (target : List Char) : Option AsmLine :=
  match readReg target, suffix with
  | some r, none   => some (.rd r)
  | some _, some _ => none
  | none, z        => (readOffset target).map fun o => .rdAt z o

/-- A write line's operands. -/
def readWr (suffix : Option Size) (target imm : List Char) : Option AsmLine :=
  match readBits 32 imm with
  | none   => none
  | some v =>
    match readReg target, suffix with
    | some r, none   => some (.wr r v)
    | some _, some _ => none
    | none, z        => (readOffset target).map fun o => .wrAt z o v

/-- A pseudo-instruction's name and operands (30_encoding.md R67). -/
def readPseudo (name : List Char) (ops : List (List Char)) : Option Pseudo :=
  if name = ['I', 'N', 'I', 'T'] then (if ops = [] then some .init else none)
  else if name = ['L', 'A', 'T', 'C', 'H'] then (if ops = [] then some .latch else none)
  else if name = ['L', 'A', 'T', 'C', 'H', 'I', 'N', 'I', 'T'] then (if ops = [] then some .latchInit else none)
  else if name = ['G', 'E', 'T', 'H', 'D', 'R'] then (if ops = [] then some .getHdr else none)
  else if name = ['S', 'E', 'T', 'S', 'E', 'E', 'D'] then
    match ops with
    | [s] => (readBits 16 s).map .setSeed
    | _   => none
  else if name = ['F', 'E', 'E', 'D'] then
    match ops with
    | [b] => (readBits 8 b).map .feed
    | _   => none
  else if name = ['F', 'E', 'E', 'D', '4'] then
    match ops.mapM (readBits 8) with
    | some [b0, b1, b2, b3] => some (.feed4 b0 b1 b2 b3)
    | _                     => none
  else if name = ['S', 'T', 'A', 'R', 'T'] then
    match ops with
    | []  => some (.start none)
    | [s] => (readBits 16 s).map fun v => .start (some v)
    | _   => none
  else if name = ['C', 'R', 'C', '1', '6'] then
    match ops with
    | s :: bs =>
      match readBits 16 s, bs.mapM (readBits 8) with
      | some v, some ws => some (.crc16 v ws)
      | _, _            => none
    | []      => none
  else none

/-- The operand list after a line's first word: cut at commas, blanks dropped; nothing there is no operand. -/
def readOperands (cs : List Char) : List (List Char) :=
  let kept := cs.filter fun c => c ≠ ' '
  if kept = [] then [] else cutAt ',' kept

/-- A line of assembler text (30_encoding.md R66, R67). -/
def readLine (cs : List Char) : Option AsmLine :=
  let line := cs.dropWhile fun c => c == ' '
  let name := line.takeWhile fun c => c != ' '
  let ops := readOperands (line.dropWhile fun c => c != ' ')
  match name with
  | 'R' :: 'D' :: sfx =>
    match readSuffix sfx, ops with
    | some z, [target] => readRd z target
    | _, _             => none
  | 'W' :: 'R' :: sfx =>
    match readSuffix sfx, ops with
    | some z, [target, imm] => readWr z target imm
    | _, _                  => none
  | _ => (readPseudo name ops).map .pseudo

end Sys2Proof.Machine
end

