-- ==== Sys2Proof/Safety.lean ====
section
/-!
DEFINITION. The terms that claims use: a machine that is past its first reset and stays so, running a list of events, the
bytes a transaction feeds, and what a read returns.
-/

namespace Sys2Proof.Machine

/-- Past the first reset, with no power-up pending: the block's rules hold from here on (70_reset_and_hazards.md R163). -/
def Ready (s : State) : Prop := s.resetSeen = true ∧ HostEvent.powerUp ∉ s.pending

/-- `n` steps. -/
def run (n : Nat) (s : State) : Host.Outcome State Fault Refusal := Host.Core.run Sys2Proof.core n s

/-- `s` with the transactions `ts` as all that is pending, then `rest`. -/
def State.facing (s : State) (ts : List Txn) (rest : List HostEvent) : State :=
  { s with pending := ts.map HostEvent.transaction ++ rest }

/-- The bytes a transaction feeds to the engine (40_crc_engine.md R86, R88): one for a DATA8 write, four for a DATA32
write, none for any other transaction, legal or not. -/
def fedBytes (t : Txn) : List Byte :=
  match decode t with
  | .instr (.wrData8 w)  => [byteField w]
  | .instr (.wrData32 w) => lanes w
  | _                    => []

/-- Does a transaction start a computation: a CTRL write with INIT set (40_crc_engine.md R82)? -/
def startsComputation (t : Txn) : Bool :=
  match decode t with
  | .instr (.wrCtrl w) => initBit w
  | _                  => false

/-- Does a transaction latch: a CTRL write with LATCH set (41_header_serializer.md R120)? -/
def latches (t : Txn) : Bool :=
  match decode t with
  | .instr (.wrCtrl w) => latchBit w
  | _                  => false

/-- Is a transaction a SEED write (40_crc_engine.md R84)? -/
def writesSeed (t : Txn) : Bool :=
  match decode t with
  | .instr (.wrSeed _) => true
  | _                  => false

/-- The value a host reads back: `rdata` of the response an operation gives at `s`. -/
def readValue (i : Instr) (s : State) : Option Word :=
  match exec i s with
  | .next t    => t.responses.getLast?.bind Response.rdata
  | .fault _   => none
  | .refused _ => none

/-- The bytes of a list of read responses, lane 0 first in each word (20_memory.md R41). -/
def responseBytes (rs : List Response) : List Byte := rs.flatMap fun r => (r.rdata.map lanes).getD []

end Sys2Proof.Machine
end

