-- ==== Sys2Proof/Certificates/Slice0/Obligations.lean ====
section
/-!
DEFINITION. The statements about CRC16HDR that the provers are to settle. Every one that concludes with
`exec i s = .next { s with … }` or `step s = .next { s with … }` states the whole next state, so its frame too: a field
that the record update does not name is unchanged.
-/

open Sys2Proof Sys2Proof.Machine

/-! ### Encoding -/

/-- Decoding and encoding agree in both directions: a transaction decodes to `i` exactly if `i` is well formed and the
transaction is `i`'s encoding (30_encoding.md R60, R61, R63). -/
def Obligations.DecodeInvertsEncode : Prop :=
  ∀ (t : Txn) (i : Instr), decode t = .instr i ↔ i.wf = true ∧ encode i = t

/-- 30_encoding.md R61: `desc = {SIZE, WE, OFF} = SIZE << 9 | WE << 8 | OFF`, the codes of SIZE and WE, and the bus address
BASE + OFF, for every BASE. -/
def Obligations.DescriptorFields : Prop :=
  (∀ t : Txn, t.desc.toNat = (t.size.bits.toNat <<< 9) ||| (t.weBit.toNat <<< 8) ||| t.off.toNat) ∧
  (Size.byte.bits = 0b00#2 ∧ Size.half.bits = 0b01#2 ∧ Size.word.bits = 0b10#2 ∧ Size.reserved.bits = 0b11#2) ∧
  (∀ t : Txn, t.weBit = if t.isRead then 0#1 else 1#1) ∧
  (∀ (base : Nat) (z : Size) (off : Offset) (w : Word),
    memRead base (base + off.toNat) z = some (.read z off) ∧
      memWrite base (base + off.toNat) z w = some (.write z off w))

/-- 30_encoding.md R63: the fifteen rows, written out as descriptors, decode to their operations with any data word; no
descriptor matches two rows. That the rows are disjoint is the spec's own inference, which R63 marks as derived from the
table. -/
def Obligations.OpcodeMapDecodes : Prop :=
  (∀ w : Word,
    decode (Txn.ofDesc 0x400#11 w) = .instr .rdCtrl ∧ decode (Txn.ofDesc 0x500#11 w) = .instr (.wrCtrl w) ∧
    decode (Txn.ofDesc 0x404#11 w) = .instr .rdSeed ∧ decode (Txn.ofDesc 0x504#11 w) = .instr (.wrSeed w) ∧
    decode (Txn.ofDesc 0x408#11 w) = .instr .rdCrc ∧ decode (Txn.ofDesc 0x508#11 w) = .instr (.wrCrc w) ∧
    decode (Txn.ofDesc 0x40C#11 w) = .instr .rdData8 ∧ decode (Txn.ofDesc 0x50C#11 w) = .instr (.wrData8 w) ∧
    decode (Txn.ofDesc 0x410#11 w) = .instr .rdData32 ∧ decode (Txn.ofDesc 0x510#11 w) = .instr (.wrData32 w) ∧
    decode (Txn.ofDesc 0x420#11 w) = .instr .rdHdr0 ∧ decode (Txn.ofDesc 0x424#11 w) = .instr .rdHdr1 ∧
    decode (Txn.ofDesc 0x428#11 w) = .instr .rdHdr2 ∧ decode (Txn.ofDesc 0x42C#11 w) = .instr .rdHdr3 ∧
    decode (Txn.ofDesc 0x520#11 w) = .instr (.wrHdr 0 w) ∧ decode (Txn.ofDesc 0x524#11 w) = .instr (.wrHdr 1 w) ∧
    decode (Txn.ofDesc 0x528#11 w) = .instr (.wrHdr 2 w) ∧ decode (Txn.ofDesc 0x52C#11 w) = .instr (.wrHdr 3 w)) ∧
  (∀ d : Descriptor, (opcodeTable.filter fun r => r.matches d).length ≤ 1) ∧
  (∀ (d : Descriptor) (w : Word),
    (∃ i, decode (Txn.ofDesc d w) = .instr i) ↔ ∃ r ∈ opcodeTable, r.matches d = true)

/-- 30_encoding.md R64, 60_exceptions.md R141, R142: which transactions are illegal and of which kind, how many of the 2048
descriptors fall in each class, and that an illegal one ends in ERROR and changes no register, a byte fed by a 1-byte
DATA8 write among them. -/
def Obligations.IllegalDescriptorsAreClassified : Prop :=
  (∀ t : Txn, (∃ k, decode t = .illegal k) ↔ ∀ r ∈ opcodeTable, r.matches t.desc = false) ∧
  (∀ t : Txn, decode t = .illegal .badSize ↔ t.size ≠ .word) ∧
  (∀ t : Txn, decode t = .illegal .misaligned ↔ t.size = .word ∧ t.off.toNat % 4 ≠ 0) ∧
  (∀ t : Txn, decode t = .illegal .unmapped ↔
    t.size = .word ∧ t.off.toNat % 4 = 0 ∧
      (0x14 ≤ t.off.toNat ∧ t.off.toNat ≤ 0x1C ∨ 0x30 ≤ t.off.toNat ∧ t.off.toNat ≤ 0xFC)) ∧
  (let classes := (List.range 2048).map fun d => decodeDesc (BitVec.ofNat 11 d) 0#32
   classes.count (.illegal .badSize) = 1536 ∧ classes.count (.illegal .misaligned) = 384 ∧
     classes.count (.illegal .unmapped) = 110 ∧
     classes.countP (fun c => match c with | .instr _ => true | .illegal _ => false) = 18) ∧
  (∀ (s : State) (t : Txn) (es : List HostEvent) (k : BusErrorKind),
    s.resetSeen = true → s.pending = .transaction t :: es → decode t = .illegal k →
      ∃ r : Response, step s = .next { s with pending := es, responses := s.responses ++ [r] } ∧ r.resp = .error)

/-- Where the window is a multiple of 256 (20_memory.md R47), an access is misaligned in the descriptor's sense exactly if
its bus address is not word-aligned, and an address outside the window is no transaction of the block (log entry 7). -/
def Obligations.BusAddressesOfTheWindow : Prop :=
  ∀ base : Nat, baseWf base = true →
    (∀ (off : Offset) (t : Txn), memRead base (base + off.toNat) .word = some t →
      (decode t = .illegal .misaligned ↔ (base + off.toNat) % 4 ≠ 0)) ∧
    (∀ (addr : Nat) (z : Size) (w : Word), addr / 256 ≠ base / 256 →
      memRead base addr z = none ∧ memWrite base addr z w = none)

/-! ### The step -/

/-- 30_encoding.md R60, 20_memory.md R45: a step takes the oldest pending transaction; one that decodes to an operation is
that operation performed at the state without it. -/
def Obligations.StepRunsDecodedTransaction : Prop :=
  ∀ (s : State) (t : Txn) (es : List HostEvent) (i : Instr),
    s.pending = .transaction t :: es → decode t = .instr i → step s = exec i { s with pending := es }

/-- With nothing pending a step changes nothing (log entry 1: the model's reading of 10_state.md R32 and R36). -/
def Obligations.IdleStepChangesNothing : Prop :=
  ∀ s : State, s.pending = [] → step s = .next s

/-- 60_exceptions.md R140, R145: a transaction whose descriptor matches no row of the table ends in ERROR, a read's rdata is
0, and the block's registers are as before. The kind label and every earlier response influence no step: replacing the responses given so far by any other
list changes nothing in a step's outcome but that list. That second clause ranges over resets and power-ups too, and that
a step keeps the responses already given is the model's choice: log entry 2 for the list itself, log entry 6 at a
power-up, log entry 9 at a reset. -/
def Obligations.BusErrorHasNoEffect : Prop :=
  (∀ (s : State) (t : Txn) (es : List HostEvent),
    s.resetSeen = true → s.pending = .transaction t :: es → (∀ r ∈ opcodeTable, r.matches t.desc = false) →
      ∃ r : Response, step s = .next { s with pending := es, responses := s.responses ++ [r] } ∧
        r.resp.code = 1 ∧ r.rdata = if t.isRead then some 0#32 else none) ∧
  (∀ (s s' : State), step s = .next s' →
    ∃ new : List Response, s'.responses = s.responses ++ new ∧
      ∀ rs : List Response, step { s with responses := rs } = .next { s' with responses := rs ++ new })

/-- 70_reset_and_hazards.md R160, R162: a reset, from any state, before the first reset too, sets the three registers and
nothing else of the block; the registers then read back as R160's table gives. Nothing is said of the model's two lists of
the host's side. -/
def Obligations.ResetSetsTheRegisters : Prop :=
  (∀ (s : State) (es : List HostEvent), s.pending = .reset :: es →
    ∃ (p : List HostEvent) (rs : List Response), step s = .next { s with
      crc := 0xFFFF#16, seed := 0xFFFF#16, hdrck := 0xFFFF#16, resetSeen := true, pending := p, responses := rs }) ∧
  (∀ (s s' : State) (es : List HostEvent), s.pending = .reset :: es → step s = .next s' →
    readValue .rdCtrl s' = some 0#32 ∧ readValue .rdSeed s' = some 0x0000FFFF#32 ∧
    readValue .rdCrc s' = some 0x0000FFFF#32 ∧ readValue .rdData8 s' = some 0#32 ∧
    readValue .rdData32 s' = some 0#32 ∧
    readValue .rdHdr0 s' = some (s.params.deviceRev ++ s.params.deviceType) ∧
    readValue .rdHdr1 s' = some s.params.appVersion ∧
    readValue .rdHdr2 s' = some (s.params.companionVersion1 ++ 0x0002#16) ∧
    readValue .rdHdr3 s' = some (0xFFFF#16 ++ s.params.companionVersion2))

/-- 70_reset_and_hazards.md R160 at the model's reset state with the default parameters (00_scope.md R6). -/
def Obligations.ResetStateReadsAsSpecified : Prop :=
  State.reset.crc = 0xFFFF#16 ∧ State.reset.seed = 0xFFFF#16 ∧ State.reset.hdrck = 0xFFFF#16 ∧
  readValue .rdHdr0 State.reset = some 0xFFFFFFFF#32 ∧ readValue .rdHdr1 State.reset = some 0xFFFFFFFF#32 ∧
  readValue .rdHdr2 State.reset = some 0x005A0002#32 ∧ readValue .rdHdr3 State.reset = some 0xFFFF0064#32

/-- 70_reset_and_hazards.md R161: before the first reset every transaction, legal or not, is refused, whatever the registers
hold. -/
def Obligations.RefusedBeforeFirstReset : Prop :=
  ∀ (s : State) (t : Txn) (es : List HostEvent),
    s.resetSeen = false → s.pending = .transaction t :: es → step s = .refused .beforeFirstReset

/-- The model's power-up event (log entry 6; 60_exceptions.md R154): the parameters and the host's lists stay, and the block
is back before its first reset; nothing is said of the three registers. -/
def Obligations.PowerUpNeedsAReset : Prop :=
  ∀ (s : State) (es : List HostEvent), s.pending = .powerUp :: es →
    ∃ c d h : Half, ∃ n : Nat, step s = .next { s with
      crc := c, seed := d, hdrck := h, resetSeen := false, pending := es, freeIdx := n }

/-! ### CTRL, SEED, CRC -/

/-- 40_crc_engine.md R81. -/
def Obligations.RdCtrlReadsZero : Prop :=
  (∀ w : Word, decode (Txn.ofDesc 0x400#11 w) = .instr .rdCtrl) ∧
  ∀ s : State, s.resetSeen = true →
    exec .rdCtrl s = .next { s with responses := s.responses ++ [.readOkay 0x00000000#32] }

/-- 40_crc_engine.md R82, 41_header_serializer.md R120: LATCH takes the CRC from before the transaction, INIT copies SEED,
each only when its bit is 1, and the other thirty bits of wdata do nothing. -/
def Obligations.WrCtrlLatchesThenInits : Prop :=
  (∀ w : Word, decode (Txn.ofDesc 0x500#11 w) = .instr (.wrCtrl w)) ∧
  ∀ (w : Word) (s : State), s.resetSeen = true →
    exec (.wrCtrl w) s = .next { s with
      hdrck := if w &&& 2#32 ≠ 0#32 then s.crc else s.hdrck
      crc := if w &&& 1#32 ≠ 0#32 then s.seed else s.crc
      responses := s.responses ++ [.writeOkay] }

/-- 40_crc_engine.md R83. -/
def Obligations.RdSeedReadsSeed : Prop :=
  (∀ w : Word, decode (Txn.ofDesc 0x404#11 w) = .instr .rdSeed) ∧
  ∀ s : State, s.resetSeen = true →
    exec .rdSeed s = .next { s with responses := s.responses ++ [.readOkay (0x0000#16 ++ s.seed)] }

/-- 40_crc_engine.md R84: SEED takes the low half of wdata and CRC does not change; from seed 0x0000 the CRC of an all-zero
input is 0x0000. -/
def Obligations.WrSeedWritesSeedOnly : Prop :=
  (∀ w : Word, decode (Txn.ofDesc 0x504#11 w) = .instr (.wrSeed w)) ∧
  (∀ (hi lo : Half) (s : State), s.resetSeen = true →
    exec (.wrSeed (hi ++ lo)) s = .next { s with seed := lo, responses := s.responses ++ [.writeOkay] }) ∧
  ∀ n : Nat, crcFold 0x0000#16 (List.replicate n 0x00#8) = 0x0000#16

/-- 40_crc_engine.md R85. -/
def Obligations.RdCrcReadsRunningCrc : Prop :=
  (∀ w : Word, decode (Txn.ofDesc 0x408#11 w) = .instr .rdCrc) ∧
  ∀ s : State, s.resetSeen = true →
    exec .rdCrc s = .next { s with responses := s.responses ++ [.readOkay (0x0000#16 ++ s.crc)] }

/-- 40_crc_engine.md R90. -/
def Obligations.WrCrcIsIgnored : Prop :=
  (∀ w : Word, decode (Txn.ofDesc 0x508#11 w) = .instr (.wrCrc w)) ∧
  ∀ (w : Word) (s : State), s.resetSeen = true →
    exec (.wrCrc w) s = .next { s with responses := s.responses ++ [.writeOkay] }

/-! ### DATA8 and DATA32 -/

/-- 40_crc_engine.md R80: `crc_step` is the five steps of the pseudocode; and, as the rule's text says, step 3 brings
t2[7:4] into bits [3:0], step 4 t3[3:0] into bits [15:12], and step 5 t4[7:0] into bits [12:5]. -/
def Obligations.CrcStepIsTheFiveSteps : Prop :=
  ∀ (c : Half) (b : Byte),
    (let t1 : Half := c.extractLsb' 0 8 ++ c.extractLsb' 8 8
     let t2 : Half := t1 ^^^ b.setWidth 16
     let t3 : Half := t2 ^^^ ((t2 &&& 0xFF#16) >>> 4)
     let t4 : Half := t3 ^^^ (((t3.setWidth 32 <<< 8) <<< 4).setWidth 16)
     let t5 : Half := t4 ^^^ (((((t4 &&& 0xFF#16).setWidth 32) <<< 4) <<< 1).setWidth 16)
     crcStep c b = t5) ∧
    (let t2 : Half := c.extractLsb' 0 8 ++ (c.extractLsb' 8 8 ^^^ b)
     let t3 : Half := t2 ^^^ (0#12 ++ t2.extractLsb' 4 4)
     let t4 : Half := t3 ^^^ (t3.extractLsb' 0 4 ++ 0#12)
     let t5 : Half := t4 ^^^ (0#3 ++ t4.extractLsb' 0 8 ++ 0#5)
     crcStep c b = t5)

/-- 40_crc_engine.md R86. -/
def Obligations.WrData8FeedsOneByte : Prop :=
  (∀ w : Word, decode (Txn.ofDesc 0x50C#11 w) = .instr (.wrData8 w)) ∧
  ∀ (hi : BitVec 24) (b : Byte) (s : State), s.resetSeen = true →
    exec (.wrData8 (hi ++ b)) s = .next { s with
      crc := crcStep s.crc b, responses := s.responses ++ [.writeOkay] }

/-- 40_crc_engine.md R87. -/
def Obligations.RdData8ReadsZero : Prop :=
  (∀ w : Word, decode (Txn.ofDesc 0x40C#11 w) = .instr .rdData8) ∧
  ∀ s : State, s.resetSeen = true →
    exec .rdData8 s = .next { s with responses := s.responses ++ [.readOkay 0x00000000#32] }

/-- 40_crc_engine.md R88: the four bytes of wdata, the low one first; and the CRC, SEED and HDRCK it leaves are those that
four DATA8 writes of the lanes in that order leave. This last clause is the spec's own inference: R88 marks that corner
case as derived from R86 and R88. -/
def Obligations.WrData32FeedsFourBytes : Prop :=
  (∀ w : Word, decode (Txn.ofDesc 0x510#11 w) = .instr (.wrData32 w)) ∧
  (∀ (b0 b1 b2 b3 : Byte) (s : State), s.resetSeen = true →
    exec (.wrData32 (b3 ++ b2 ++ b1 ++ b0)) s = .next { s with
      crc := crcStep (crcStep (crcStep (crcStep s.crc b0) b1) b2) b3
      responses := s.responses ++ [.writeOkay] }) ∧
  (∀ (b0 b1 b2 b3 : Byte) (s : State), s.resetSeen = true →
    ∃ a d : State,
      run 1 (s.facing [wrReg .data32 (b3 ++ b2 ++ b1 ++ b0)] []) = .next a ∧
      run 4 (s.facing [feedTxn b0, feedTxn b1, feedTxn b2, feedTxn b3] []) = .next d ∧
      a.crc = d.crc ∧ a.seed = d.seed ∧ a.hdrck = d.hdrck)

/-- 40_crc_engine.md R89. -/
def Obligations.RdData32ReadsZero : Prop :=
  (∀ w : Word, decode (Txn.ofDesc 0x410#11 w) = .instr .rdData32) ∧
  ∀ s : State, s.resetSeen = true →
    exec .rdData32 s = .next { s with responses := s.responses ++ [.readOkay 0x00000000#32] }

/-! ### The header -/

/-- 41_header_serializer.md R122, R123, R124: the three words of parameters, and no step, a reset or a power-up among them,
changes the parameters. -/
def Obligations.HeaderParameterReads : Prop :=
  (∀ w : Word, decode (Txn.ofDesc 0x420#11 w) = .instr .rdHdr0 ∧ decode (Txn.ofDesc 0x424#11 w) = .instr .rdHdr1 ∧
    decode (Txn.ofDesc 0x428#11 w) = .instr .rdHdr2) ∧
  (∀ s : State, s.resetSeen = true →
    exec .rdHdr0 s = .next { s with
      responses := s.responses ++ [.readOkay (s.params.deviceRev ++ s.params.deviceType)] } ∧
    exec .rdHdr1 s = .next { s with responses := s.responses ++ [.readOkay s.params.appVersion] } ∧
    exec .rdHdr2 s = .next { s with
      responses := s.responses ++ [.readOkay (s.params.companionVersion1 ++ 0x0002#16)] }) ∧
  ∀ s s' : State, step s = .next s' → s'.params = s.params

/-- 41_header_serializer.md R125: HDR3 shows HDRCK, not the live CRC; what it shows stays until the next LATCH (or reset, or
the model's power-up, log entry 6). -/
def Obligations.RdHdr3ReadsLatchedChecksum : Prop :=
  (∀ w : Word, decode (Txn.ofDesc 0x42C#11 w) = .instr .rdHdr3) ∧
  (∀ s : State, s.resetSeen = true →
    exec .rdHdr3 s = .next { s with
      responses := s.responses ++ [.readOkay (s.hdrck ++ s.params.companionVersion2)] }) ∧
  (∀ (s s' : State) (t : Txn) (es : List HostEvent),
    s.pending = .transaction t :: es → latches t = false → step s = .next s' →
      readValue .rdHdr3 s' = some (s.hdrck ++ s.params.companionVersion2)) ∧
  (∀ (s s' : State) (es : List HostEvent), s.pending = .reset :: es → step s = .next s' →
    readValue .rdHdr3 s' = some (0xFFFF#16 ++ s.params.companionVersion2))

/-- 41_header_serializer.md R127: for every n of the encoding and every data word. -/
def Obligations.WrHdrIsIgnored : Prop :=
  (∀ (n : Nat) (w : Word), n < 4 → decode (Txn.ofDesc (0x520#11 + 4#11 * BitVec.ofNat 11 n) w) = .instr (.wrHdr n w)) ∧
  ∀ (n : Nat) (w : Word) (s : State), s.resetSeen = true →
    exec (.wrHdr n w) s = .next { s with responses := s.responses ++ [.writeOkay] }

/-- 41_header_serializer.md R121, R126: the record is 16 bytes; byte k is lane (k mod 4) of the word read from HDR(k div 4);
its bytes are the fields of the table, with the table's defaults, each least significant byte first; bytes 14 and 15 are HDRCK, and bytes 0 to 13
depend on the parameters alone. -/
def Obligations.RecordBytesAreTheHeaderLanes : Prop :=
  Params.default = ⟨0xFFFF#16, 0xFFFF#16, 0xFFFFFFFF#32, 0x005A#16, 0x0064#16⟩ ∧
  ∀ s : State, s.resetSeen = true →
    (recordBytes s.params s.hdrck).length = 16 ∧
    (∀ k : Nat, k < 16 →
      ∃ w : Word, [readValue .rdHdr0 s, readValue .rdHdr1 s, readValue .rdHdr2 s, readValue .rdHdr3 s][k / 4]? =
          some (some w) ∧
        (recordBytes s.params s.hdrck)[k]? = some (w.extractLsb' (8 * (k % 4)) 8)) ∧
    (recordBytes s.params s.hdrck =
      [s.params.deviceType.extractLsb' 0 8, s.params.deviceType.extractLsb' 8 8,
        s.params.deviceRev.extractLsb' 0 8, s.params.deviceRev.extractLsb' 8 8,
        s.params.appVersion.extractLsb' 0 8, s.params.appVersion.extractLsb' 8 8,
        s.params.appVersion.extractLsb' 16 8, s.params.appVersion.extractLsb' 24 8, 0x02#8, 0x00#8,
        s.params.companionVersion1.extractLsb' 0 8, s.params.companionVersion1.extractLsb' 8 8,
        s.params.companionVersion2.extractLsb' 0 8, s.params.companionVersion2.extractLsb' 8 8,
        s.hdrck.extractLsb' 0 8, s.hdrck.extractLsb' 8 8]) ∧
    (∀ v : Half, (recordBytes s.params v).take 14 = (recordBytes s.params s.hdrck).take 14)

/-- 41_header_serializer.md R128: after reset with the default parameters, GETHDR gives the record of an empty input; and
from any state past the first reset GETHDR gives four OKAY words, 16 bytes. -/
def Obligations.RecordAfterReset : Prop :=
  State.reset.hdrck = crcFold 0xFFFF#16 [] ∧
  (∃ s' : State, run 4 (State.reset.facing (expandPseudo .getHdr) []) = .next s' ∧
    responseBytes s'.responses =
      [0xFF#8, 0xFF#8, 0xFF#8, 0xFF#8, 0xFF#8, 0xFF#8, 0xFF#8, 0xFF#8,
        0x02#8, 0x00#8, 0x5A#8, 0x00#8, 0x64#8, 0x00#8, 0xFF#8, 0xFF#8]) ∧
  (∀ s : State, s.resetSeen = true → ∃ w0 w1 w2 w3 : Word,
    run 4 (s.facing (expandPseudo .getHdr) []) = .next { s with
      pending := [], responses := s.responses ++ [.readOkay w0, .readOkay w1, .readOkay w2, .readOkay w3] } ∧
    responseBytes [.readOkay w0, .readOkay w1, .readOkay w2, .readOkay w3] = recordBytes s.params s.hdrck)

/-- 41_header_serializer.md R129: WR SEED v, INIT, LATCH, GETHDR gives the record with checksum v, for every v; a single
WR CTRL 3 after WR SEED v latches the CRC from before instead. -/
def Obligations.BuildHeaderContract : Prop :=
  ∀ (s : State) (v : Half), s.resetSeen = true →
    (∃ (s' : State) (rs : List Response),
      run 7 (s.facing (expandPseudo (.setSeed v) ++ expandPseudo .init ++ expandPseudo .latch ++ expandPseudo .getHdr)
        []) = .next s' ∧
      s'.responses = s.responses ++ [.writeOkay, .writeOkay, .writeOkay] ++ rs ∧
      responseBytes rs = recordBytes s.params v) ∧
    (∃ s' : State, run 2 (s.facing (expandPseudo (.setSeed v) ++ expandPseudo .latchInit) []) = .next s' ∧
      s'.hdrck = s.crc ∧ s'.crc = v)

/-! ### Computations -/

/-- 10_state.md R21, as a whole-machine rule: from any state past the first reset, after an INIT the CRC is the fold of every
byte fed since, started from the SEED that INIT copied, whatever other transactions (reads, illegal ones, SEED and
ignored writes, latches) stand between; after a reset it is started from 0xFFFF. -/
def Obligations.CrcIsTheFoldSinceInit : Prop :=
  (∀ (s : State) (t : Txn) (ts : List Txn) (rest : List HostEvent), s.resetSeen = true →
    startsComputation t = true → (∀ u ∈ ts, startsComputation u = false) →
      ∃ s' : State, run (ts.length + 1) (s.facing (t :: ts) rest) = .next s' ∧
        s'.pending = rest ∧ s'.crc = crcFold s.seed (ts.flatMap fedBytes) ∧
        readValue .rdCrc s' = some (0x0000#16 ++ s'.crc)) ∧
  (∀ (s s₀ : State) (es rest : List HostEvent) (ts : List Txn), s.pending = .reset :: es → step s = .next s₀ →
    (∀ u ∈ ts, startsComputation u = false) →
      ∃ s' : State, run ts.length (s₀.facing ts rest) = .next s' ∧
        s'.pending = rest ∧ s'.crc = crcFold 0xFFFF#16 (ts.flatMap fedBytes) ∧
        readValue .rdCrc s' = some (0x0000#16 ++ s'.crc))

/-- 40_crc_engine.md R92: WR SEED v, an INIT, the bytes of `data` fed by any mix of DATA8 and DATA32 writes, RD CRC returns
`zext_32(crc_fold(v, data))`. Transactions other than CTRL, DATA8 and DATA32 may stand between. After reset the
first two steps may be left out for seed 0xFFFF. An empty `data` gives the seed. -/
def Obligations.ComputationContract : Prop :=
  (∀ (s : State) (v : Half) (ts : List Txn), s.resetSeen = true → (∀ u ∈ ts, startsComputation u = false) →
    ∃ s' : State,
      run (ts.length + 3)
        (s.facing (wrReg .seed (0x0000#16 ++ v) :: wrReg .ctrl 0x1#32 :: (ts ++ [rdReg .crc])) []) = .next s' ∧
      s'.responses.getLast? = some (.readOkay (0x0000#16 ++ crcFold v (ts.flatMap fedBytes)))) ∧
  (∀ (s s₀ : State) (es : List HostEvent) (ts : List Txn), s.pending = .reset :: es → step s = .next s₀ →
    (∀ u ∈ ts, startsComputation u = false) →
    ∃ s' : State, run (ts.length + 1) (s₀.facing (ts ++ [rdReg .crc]) []) = .next s' ∧
      s'.responses.getLast? = some (.readOkay (0x0000#16 ++ crcFold 0xFFFF#16 (ts.flatMap fedBytes)))) ∧
  (∀ (b : Byte), fedBytes (feedTxn b) = [b]) ∧
  (∀ (b0 b1 b2 b3 : Byte), fedBytes (wrReg .data32 (ofLanes b0 b1 b2 b3)) = [b0, b1, b2, b3]) ∧
  (∀ v : Half, crcFold v [] = v)

/-- 20_memory.md R43, 40_crc_engine.md R93: two lists of transactions that start no computation and feed the same bytes, in
whatever split between DATA8 and DATA32 and with whatever reads between, leave the same CRC. -/
def Obligations.CrcDependsOnTheBytesAlone : Prop :=
  ∀ (s : State) (ts us : List Txn), s.resetSeen = true →
    (∀ u ∈ ts, startsComputation u = false) → (∀ u ∈ us, startsComputation u = false) →
    ts.flatMap fedBytes = us.flatMap fedBytes →
      ∃ a b : State, run ts.length (s.facing ts []) = .next a ∧ run us.length (s.facing us []) = .next b ∧
        a.crc = b.crc

/-- 30_encoding.md R67: the effect of each pseudo-instruction. For CRC16 the bytes may go by any transactions that only
feed (FEED and FEED4 among them). -/
def Obligations.PseudoInstructionEffects : Prop :=
  ∀ s : State, s.resetSeen = true →
    (∃ a, run 1 (s.facing (expandPseudo .init) []) = .next a ∧
      a.crc = s.seed ∧ a.seed = s.seed ∧ a.hdrck = s.hdrck) ∧
    (∃ a, run 1 (s.facing (expandPseudo .latch) []) = .next a ∧
      a.crc = s.crc ∧ a.seed = s.seed ∧ a.hdrck = s.crc) ∧
    (∃ a, run 1 (s.facing (expandPseudo .latchInit) []) = .next a ∧
      a.crc = s.seed ∧ a.seed = s.seed ∧ a.hdrck = s.crc) ∧
    (∀ v, ∃ a, run 1 (s.facing (expandPseudo (.setSeed v)) []) = .next a ∧
      a.crc = s.crc ∧ a.seed = v ∧ a.hdrck = s.hdrck) ∧
    (∀ b, ∃ a, run 1 (s.facing (expandPseudo (.feed b)) []) = .next a ∧
      a.crc = crcStep s.crc b ∧ a.seed = s.seed ∧ a.hdrck = s.hdrck) ∧
    (∀ b0 b1 b2 b3, ∃ a, run 1 (s.facing (expandPseudo (.feed4 b0 b1 b2 b3)) []) = .next a ∧
      a.crc = crcFold s.crc [b0, b1, b2, b3] ∧ a.seed = s.seed ∧ a.hdrck = s.hdrck) ∧
    (∀ v, ∃ a, run 2 (s.facing (expandPseudo (.start (some v))) []) = .next a ∧
      a.crc = v ∧ a.seed = v ∧ a.hdrck = s.hdrck) ∧
    (∃ a, run 2 (s.facing (expandPseudo (.start none)) []) = .next a ∧
      a.crc = 0xFFFF#16 ∧ a.seed = 0xFFFF#16 ∧ a.hdrck = s.hdrck) ∧
    (∀ v bs, ∃ a, run (bs.length + 3) (s.facing (expandPseudo (.crc16 v bs)) []) = .next a ∧
      a.crc = crcFold v bs ∧ a.seed = v ∧ a.hdrck = crcFold v bs) ∧
    (∀ v bs ts, (∀ u ∈ ts, fedBytes u ≠ []) → ts.flatMap fedBytes = bs →
      ∃ a, run (ts.length + 3)
          (s.facing (expandPseudo (.start (some v)) ++ ts ++ expandPseudo .latch) []) = .next a ∧
        a.crc = crcFold v bs ∧ a.seed = v ∧ a.hdrck = crcFold v bs) ∧
    (∃ a rs, run 4 (s.facing (expandPseudo .getHdr) []) = .next a ∧
      a.responses = s.responses ++ rs ∧ rs.length = 4 ∧ responseBytes rs = recordBytes s.params s.hdrck)

/-! ### The arithmetic of the engine -/

/-- 40_crc_engine.md R91: the bounds of steps 3 and 5; truncating once, at the end of a byte, gives the same value; truncating
only after two bytes does not. -/
def Obligations.TruncatingOncePerByteSuffices : Prop :=
  (∀ t : Nat, (t &&& 0xFF) >>> 4 ≤ 0x000F ∧ ((t &&& 0xFF) <<< 4) <<< 1 ≤ 0x1FE0) ∧
  (∀ (c : Half) (b : Byte), (crcStep c b).toNat = crcStepUntruncated c.toNat b.toNat % 2 ^ 16) ∧
  (∃ (c : Half) (b b' : Byte),
    (crcStep (crcStep c b) b').toNat ≠
      crcStepUntruncated (crcStepUntruncated c.toNat b.toNat) b'.toNat % 2 ^ 16)

/-- 40_crc_engine.md R94 (the spec author's derived law): crc_step is the MSB-first bitwise update with polynomial 0x1021. -/
def Obligations.CrcStepIsPolynomial1021 : Prop :=
  ∀ (c : Half) (b : Byte), crcStep c b = bitwise1021 c b

/-- 40_crc_engine.md R95 (the spec author's derived laws): linearity, and bijection on the states for each byte. -/
def Obligations.CrcStepIsLinearAndBijective : Prop :=
  (∀ (c : Half) (b : Byte), crcStep c b = crcStep c 0x00#8 ^^^ crcStep 0x0000#16 b) ∧
  (∀ c d : Half, crcStep (c ^^^ d) 0x00#8 = crcStep c 0x00#8 ^^^ crcStep d 0x00#8) ∧
  (∀ b : Byte, Function.Bijective fun c : Half => crcStep c b)

/-- 40_crc_engine.md R95 (the spec author's derived law): the fixed points of feeding a zero byte. -/
def Obligations.ZeroByteFixedPoints : Prop :=
  ∀ c : Half, crcStep c 0x00#8 = c ↔ c = 0x0000#16 ∨ c = 0xF01F#16

/-! ### Whole-machine rules -/

/-- What an operation may change (10_state.md R20's column "written by"): CRC only by INIT, DATA8 and DATA32, SEED only by a
SEED write, HDRCK only by LATCH; nothing else of the block, and one response is given. -/
def Obligations.FrameOfEveryOperation : Prop :=
  ∀ (i : Instr) (s s' : State), exec i s = .next s' →
    s'.params = s.params ∧ s'.resetSeen = s.resetSeen ∧ s'.pending = s.pending ∧ s'.freeIdx = s.freeIdx ∧
    (∃ r, s'.responses = s.responses ++ [r]) ∧
    (s'.crc ≠ s.crc → (∃ w, i = .wrData8 w) ∨ (∃ w, i = .wrData32 w) ∨ ∃ w, i = .wrCtrl w ∧ w &&& 1#32 ≠ 0#32) ∧
    (s'.seed ≠ s.seed → ∃ w, i = .wrSeed w) ∧
    (s'.hdrck ≠ s.hdrck → ∃ w, i = .wrCtrl w ∧ w &&& 2#32 ≠ 0#32)

/-- Over every step (10_state.md R20, R23; 60_exceptions.md R140): a register that changes was changed by a reset, by the
model's power-up (log entry 6), or by a transaction that the spec lets write it. -/
def Obligations.OnlyTheNamedEventsWriteARegister : Prop :=
  ∀ s s' : State, step s = .next s' →
    (s'.hdrck ≠ s.hdrck → ∃ e es, s.pending = e :: es ∧
      (e = .reset ∨ e = .powerUp ∨ ∃ t, e = .transaction t ∧ latches t = true)) ∧
    (s'.seed ≠ s.seed → ∃ e es, s.pending = e :: es ∧
      (e = .reset ∨ e = .powerUp ∨ ∃ t, e = .transaction t ∧ writesSeed t = true)) ∧
    (s'.crc ≠ s.crc → ∃ e es, s.pending = e :: es ∧
      (e = .reset ∨ e = .powerUp ∨ ∃ t, e = .transaction t ∧ (startsComputation t = true ∨ fedBytes t ≠ [])))

/-- Reads, legal or not, have no side effect; nor has a write of CRC, of HDR0 to HDR3, of CTRL with wdata[1:0] = 0, or an
illegal write; a SEED write is idempotent (20_memory.md section 2). -/
def Obligations.NoSideEffects : Prop :=
  (∀ (s : State) (t : Txn) (es : List HostEvent), s.resetSeen = true → s.pending = .transaction t :: es →
    (t.isRead = true ∨ (∃ k, decode t = .illegal k) ∨ (∃ w, decode t = .instr (.wrCrc w)) ∨
      (∃ n w, decode t = .instr (.wrHdr n w)) ∨ ∃ w, decode t = .instr (.wrCtrl w) ∧ w.extractLsb' 0 2 = 0#2) →
    ∃ r, step s = .next { s with pending := es, responses := s.responses ++ [r] }) ∧
  (∀ (s a b : State) (w : Word), exec (.wrSeed w) s = .next a → exec (.wrSeed w) a = .next b →
    b.crc = a.crc ∧ b.seed = a.seed ∧ b.hdrck = a.hdrck)

/-- 60_exceptions.md R143: every defined operation, with any data word, completes with OKAY past the first reset, a read with
data and a write without. -/
def Obligations.EveryOperationCompletesOkay : Prop :=
  ∀ (i : Instr) (s : State), s.resetSeen = true →
    ∃ (s' : State) (r : Response), exec i s = .next s' ∧ s'.responses = s.responses ++ [r] ∧
      r.resp.code = 0 ∧ (i.wf = true → r.rdata.isSome = (encode i).isRead)

/-- No stop is ever reached past the first reset (60_exceptions.md section 1; 70_reset_and_hazards.md section 4): from any
ready state every number of steps gives a next state, and after as many steps as there are events none is pending and
each transaction, legal or not, has had its one response. Where resets are pending this rests on log entry 9, the model's
inference that a reset keeps the events pending and the responses given; the two lists themselves are log entries 1
and 2. -/
def Obligations.EveryPendingTransactionIsAnswered : Prop :=
  ∀ s : State, Ready s →
    (∀ n : Nat, ∃ s' : State, run n s = .next s') ∧
    ∃ (s' : State) (rs : List Response), run s.pending.length s = .next s' ∧ s'.pending = [] ∧
      s'.responses = s.responses ++ rs ∧
      rs.length = s.pending.countP (fun e => match e with
        | .transaction _ => true | .reset => false | .powerUp => false)

/-- An invariant every step keeps: past the first reset with no power-up pending (70_reset_and_hazards.md R163), and built
with the parameters `p` (00_scope.md R6). -/
def Obligations.StepKeepsReadyAndParameters : Prop :=
  ∀ (p : Params) (s s' : State), Ready s ∧ s.params = p → step s = .next s' → Ready s' ∧ s'.params = p

/-- The invariant holds at reset, for every choice of the parameters. -/
def Obligations.ResetIsReady : Prop :=
  Ready State.reset ∧ State.reset.params = Params.default ∧
    ∀ p : Params, Ready (State.elaborated p) ∧ (State.elaborated p).params = p

/-- 70_reset_and_hazards.md R164: a read straight after a write sees the write. -/
def Obligations.ReadAfterWriteSeesTheWrite : Prop :=
  ∀ (s s' : State) (w : Word),
    (exec (.wrData32 w) s = .next s' → readValue .rdCrc s' = some (0x0000#16 ++ crcFold s.crc (lanes w))) ∧
    (exec (.wrData8 w) s = .next s' → readValue .rdCrc s' = some (0x0000#16 ++ crcStep s.crc (byteField w))) ∧
    (exec (.wrSeed w) s = .next s' → readValue .rdSeed s' = some (0x0000#16 ++ seedField w)) ∧
    (exec (.wrCtrl w) s = .next s' → initBit w = true → readValue .rdCrc s' = some (0x0000#16 ++ s.seed)) ∧
    (exec (.wrCtrl w) s = .next s' → latchBit w = true →
      readValue .rdHdr3 s' = some (s.crc ++ s.params.companionVersion2))

/-- 60_exceptions.md section 2: reads alone show the whole state. Two blocks past their first reset whose RD CRC, RD SEED
and RD HDR3 agree hold the same CRC, SEED and HDRCK. -/
def Obligations.ReadsObserveTheWholeState : Prop :=
  ∀ s t : State, s.resetSeen = true → t.resetSeen = true →
    readValue .rdCrc s = readValue .rdCrc t → readValue .rdSeed s = readValue .rdSeed t →
    readValue .rdHdr3 s = readValue .rdHdr3 t →
      s.crc = t.crc ∧ s.seed = t.seed ∧ s.hdrck = t.hdrck
end

