-- ==== Sys2Proof/Laws/Crc.lean ====
section
/-! SUPPORT. `crc_fold` over lists of bytes (00_scope.md R11). -/

namespace Sys2Proof.Machine

@[simp] theorem crcFold_nil (c : Half) : crcFold c [] = c := rfl

@[simp] theorem crcFold_cons (c : Half) (b : Byte) (bs : List Byte) :
    crcFold c (b :: bs) = crcFold (crcStep c b) bs := rfl

/-- Feeding two lists one after the other is feeding their concatenation. -/
@[simp] theorem crcFold_append (c : Half) (as bs : List Byte) :
    crcFold c (as ++ bs) = crcFold (crcFold c as) bs := by
  simp [crcFold, List.foldl_append]

/-- The four lanes, one step each (40_crc_engine.md R88). -/
theorem crcFold_lanes (c : Half) (w : Word) :
    crcFold c (lanes w) =
      crcStep (crcStep (crcStep (crcStep c (lane 0 w)) (lane 1 w)) (lane 2 w)) (lane 3 w) := rfl

end Sys2Proof.Machine
end

