-- ==== Sys2Proof/Laws/Decode.lean ====
section
/-! SUPPORT. Small lemmas about descriptors and their fields (30_encoding.md R61), cited wherever a transaction is taken apart. -/

namespace Sys2Proof

@[simp] theorem Size.ofBits_bits (z : Size) : Size.ofBits z.bits = z := by cases z <;> rfl

theorem Size.bits_ofBits (b : BitVec 2) : (Size.ofBits b).bits = b := by revert b; decide

@[simp] theorem Txn.read_isRead (z : Size) (o : Offset) : (Txn.read z o).isRead = true := rfl
@[simp] theorem Txn.write_isRead (z : Size) (o : Offset) (w : Word) : (Txn.write z o w).isRead = false := rfl
@[simp] theorem Txn.read_size (z : Size) (o : Offset) : (Txn.read z o).size = z := rfl
@[simp] theorem Txn.write_size (z : Size) (o : Offset) (w : Word) : (Txn.write z o w).size = z := rfl
@[simp] theorem Txn.read_off (z : Size) (o : Offset) : (Txn.read z o).off = o := rfl
@[simp] theorem Txn.write_off (z : Size) (o : Offset) (w : Word) : (Txn.write z o w).off = o := rfl

/-- Decoding a transaction is decoding its descriptor, with its data word if it is a write. -/
theorem decode_read (z : Size) (o : Offset) : decode (.read z o) = decodeDesc (Txn.read z o).desc 0#32 := rfl
theorem decode_write (z : Size) (o : Offset) (w : Word) :
    decode (.write z o w) = decodeDesc (Txn.write z o w).desc w := rfl

/-- An if-and-else chain answers `x` where another with the same tests does, if the branches do pairwise. -/
theorem ite_eq_iff_ite_eq {c : Prop} [Decidable c] {a b a' b' x : Decoded} (ha : a = x ↔ a' = x)
    (hb : b = x ↔ b' = x) : (if c then a else b) = x ↔ (if c then a' else b') = x := by
  by_cases h : c
  · rw [if_pos h, if_pos h]; exact ha
  · rw [if_neg h, if_neg h]; exact hb

/-- Whether a descriptor is illegal, and of which kind, does not depend on the data word. -/
theorem decodeDesc_eq_illegal_iff (d : Descriptor) (w w' : Word) (k : BusErrorKind) :
    decodeDesc d w = .illegal k ↔ decodeDesc d w' = .illegal k := by
  unfold decodeDesc
  iterate 15 refine ite_eq_iff_ite_eq (by simp only [reduceCtorEq]) ?_
  rfl

/-- The offset field of a transaction's descriptor is its offset. -/
@[simp] theorem descOff_desc (t : Txn) : descOff t.desc = t.off := by
  ext i hi
  simp only [descOff, Txn.desc, descOf, BitVec.getElem_extractLsb', Nat.zero_add, BitVec.getLsbD_append]
  simp [hi]

/-- The WE bit of a transaction's descriptor is set exactly for a write. -/
@[simp] theorem descWe_desc (t : Txn) : descWe t.desc = !t.isRead := by
  cases t <;> simp only [descWe, Txn.desc, descOf, Txn.weBit, BitVec.getLsbD_append] <;> rfl

/-- The size field of a transaction's descriptor is its size. -/
@[simp] theorem descSize_desc (t : Txn) : descSize t.desc = t.size := by
  have h : (t.desc).extractLsb' 9 2 = t.size.bits := by
    ext i hi
    simp only [Txn.desc, descOf, BitVec.getElem_extractLsb', BitVec.getLsbD_append]
    have h1 : ¬ (9 + i < 8) := by omega
    have h2 : ¬ (9 + i - 8 < 1) := by omega
    have h3 : 9 + i - 8 - 1 = i := by omega
    simp [h1, h2, h3, BitVec.getLsbD_eq_getElem hi]
  rw [descSize, h, Size.ofBits_bits]

/-- A transaction is the one its descriptor and data word write out. -/
theorem Txn.ofDesc_desc (t : Txn) (w : Word) (h : t.wdata = none ∨ t.wdata = some w) : Txn.ofDesc t.desc w = t := by
  cases t with
  | read z o => simp [Txn.ofDesc]
  | write z o d => simp [Txn.wdata] at h; simp [Txn.ofDesc, h]

/-- Reading back the bits of a transaction gives the transaction: the layout of `txnOfBits` drops nothing. -/
theorem txnOfBits_toBits (t : Txn) : txnOfBits t.toBits.1 t.toBits.2 = some t := by
  cases t with
  | read z o =>
    have hd := (Txn.read z o).desc.isLt
    have h1 : (Txn.read z o).desc.toNat % 2 ^ 16 = (Txn.read z o).desc.toNat := Nat.mod_eq_of_lt (by omega)
    have h2 : (Txn.read z o).desc.toNat / 2 ^ 16 = 0 := Nat.div_eq_of_lt (by omega)
    have h3 : ¬ 2 ^ 11 ≤ (Txn.read z o).desc.toNat := by omega
    simp only [txnOfBits, Txn.toBits, h1, h2, if_neg h3]
    rw [BitVec.ofNat_toNat, BitVec.setWidth_eq, Txn.ofDesc_desc _ _ (.inl rfl)]
    rfl
  | write z o w =>
    have hd := (Txn.write z o w).desc.isLt
    have hw := w.isLt
    generalize hD : (Txn.write z o w).desc = D at *
    have h0 : (D.toNat + 2 ^ 16 * w.toNat) % 2 ^ 48 = D.toNat + 2 ^ 16 * w.toNat := Nat.mod_eq_of_lt (by omega)
    have h1 : (D.toNat + 2 ^ 16 * w.toNat) % 2 ^ 16 = D.toNat := by omega
    have h2 : (D.toNat + 2 ^ 16 * w.toNat) / 2 ^ 16 = w.toNat := by omega
    have h3 : ¬ 2 ^ 11 ≤ D.toNat := by omega
    simp only [txnOfBits, Txn.toBits, hD, h0, h1, h2, if_neg h3]
    rw [BitVec.ofNat_toNat, BitVec.ofNat_toNat, BitVec.setWidth_eq, BitVec.setWidth_eq, ← hD,
      Txn.ofDesc_desc _ _ (.inr rfl)]
    simp [hw]

end Sys2Proof
end

