-- ==== Sys2Proof/Laws/Operands.lean ====
section
/-! SUPPORT. The fields of `wdata` and the shape of `rdata` as concatenations (30_encoding.md R62; 20_memory.md R41). -/

namespace Sys2Proof.Machine

/-- `zext_32` puts sixteen zero bits above the value. -/
theorem zext32_eq_append (v : Half) : zext32 v = 0x0000#16 ++ v := by
  apply BitVec.eq_of_getLsbD_eq
  intro i hi
  simp only [zext32, BitVec.getLsbD_setWidth, BitVec.getLsbD_append]
  by_cases h : i < 16
  · simp [h, hi]
  · simp [h, BitVec.getLsbD_of_ge v i (by omega)]

@[simp] theorem seedField_append (hi lo : Half) : seedField (hi ++ lo) = lo := by
  apply BitVec.eq_of_getLsbD_eq
  intro i h
  simp only [seedField, BitVec.getLsbD_extractLsb', BitVec.getLsbD_append]
  simp [h]

@[simp] theorem byteField_append (hi : BitVec 24) (b : Byte) : byteField (hi ++ b) = b := by
  apply BitVec.eq_of_getLsbD_eq
  intro i h
  simp only [byteField, BitVec.getLsbD_extractLsb', BitVec.getLsbD_append]
  simp [h]

/-- The lanes of a word written byte by byte, lane 0 first. -/
@[simp] theorem lanes_ofLanes (b0 b1 b2 b3 : Byte) : lanes (ofLanes b0 b1 b2 b3) = [b0, b1, b2, b3] := by
  simp only [lanes, lane, ofLanes, List.cons.injEq, and_true]
  refine ⟨?_, ?_, ?_, ?_⟩ <;> apply BitVec.eq_of_getLsbD_eq <;> intro i h <;>
    simp only [BitVec.getLsbD_extractLsb', BitVec.getLsbD_append]
  · simp [h]
  · simp [h]
  · have h1 : ¬ (16 + i < 8) := by omega
    have h2 : ¬ (16 + i - 8 < 8) := by omega
    have h3 : 16 + i - 8 - 8 = i := by omega
    simp [h, h1, h2, h3]
  · have h1 : ¬ (24 + i < 8) := by omega
    have h2 : ¬ (24 + i - 8 < 8) := by omega
    have h3 : ¬ (24 + i - 8 - 8 < 8) := by omega
    have h4 : 24 + i - 8 - 8 - 8 = i := by omega
    simp [h, h1, h2, h3, h4]

/-- INIT is bit 0 of wdata, as a mask (10_state.md R25). -/
theorem initBit_iff_mask (w : Word) : initBit w = true ↔ w &&& 1#32 ≠ 0#32 := by
  have h : (1#32 : Word) = BitVec.twoPow 32 0 := by decide
  have h0 : BitVec.twoPow 32 0 ≠ 0#32 := by decide
  rw [h, BitVec.and_twoPow, initBit]
  cases w.getLsbD 0
  · simp
  · simpa using h0

/-- LATCH is bit 1 of wdata, as a mask (10_state.md R25). -/
theorem latchBit_iff_mask (w : Word) : latchBit w = true ↔ w &&& 2#32 ≠ 0#32 := by
  have h : (2#32 : Word) = BitVec.twoPow 32 1 := by decide
  have h0 : BitVec.twoPow 32 1 ≠ 0#32 := by decide
  rw [h, BitVec.and_twoPow, latchBit]
  cases w.getLsbD 1
  · simp
  · simpa using h0

end Sys2Proof.Machine
end

