-- ==== Sys2Proof/Laws/State.lean ====
section
/-!
SUPPORT. One lemma per field of State for each update of Machine/Ops.lean and Safety.lean: what the update leaves in the
field. Provers cite these and never unfold an update.
-/

namespace Sys2Proof.Machine

section Fields
variable (s : State)

@[simp] theorem State.respond_crc (r : Response) : (s.respond r).crc = s.crc := rfl
@[simp] theorem State.respond_seed (r : Response) : (s.respond r).seed = s.seed := rfl
@[simp] theorem State.respond_hdrck (r : Response) : (s.respond r).hdrck = s.hdrck := rfl
@[simp] theorem State.respond_resetSeen (r : Response) : (s.respond r).resetSeen = s.resetSeen := rfl
@[simp] theorem State.respond_params (r : Response) : (s.respond r).params = s.params := rfl
@[simp] theorem State.respond_pending (r : Response) : (s.respond r).pending = s.pending := rfl
@[simp] theorem State.respond_responses (r : Response) : (s.respond r).responses = s.responses ++ [r] := rfl
@[simp] theorem State.respond_freeIdx (r : Response) : (s.respond r).freeIdx = s.freeIdx := rfl

@[simp] theorem State.applyReset_crc : (s.applyReset).crc = resetHalf := rfl
@[simp] theorem State.applyReset_seed : (s.applyReset).seed = resetHalf := rfl
@[simp] theorem State.applyReset_hdrck : (s.applyReset).hdrck = resetHalf := rfl
@[simp] theorem State.applyReset_resetSeen : (s.applyReset).resetSeen = true := rfl
@[simp] theorem State.applyReset_params : (s.applyReset).params = s.params := rfl
@[simp] theorem State.applyReset_pending : (s.applyReset).pending = s.pending := rfl
@[simp] theorem State.applyReset_responses : (s.applyReset).responses = s.responses := rfl
@[simp] theorem State.applyReset_freeIdx : (s.applyReset).freeIdx = s.freeIdx := rfl

@[simp] theorem State.powerUp_crc : (s.powerUp).crc = Config.unspecifiedHalf s.freeIdx := rfl
@[simp] theorem State.powerUp_seed : (s.powerUp).seed = Config.unspecifiedHalf (s.freeIdx + 1) := rfl
@[simp] theorem State.powerUp_hdrck : (s.powerUp).hdrck = Config.unspecifiedHalf (s.freeIdx + 2) := rfl
@[simp] theorem State.powerUp_resetSeen : (s.powerUp).resetSeen = false := rfl
@[simp] theorem State.powerUp_params : (s.powerUp).params = s.params := rfl
@[simp] theorem State.powerUp_pending : (s.powerUp).pending = s.pending := rfl
@[simp] theorem State.powerUp_responses : (s.powerUp).responses = s.responses := rfl
@[simp] theorem State.powerUp_freeIdx : (s.powerUp).freeIdx = s.freeIdx + 3 := rfl

@[simp] theorem State.issue_crc (es : List HostEvent) : (s.issue es).crc = s.crc := rfl
@[simp] theorem State.issue_seed (es : List HostEvent) : (s.issue es).seed = s.seed := rfl
@[simp] theorem State.issue_hdrck (es : List HostEvent) : (s.issue es).hdrck = s.hdrck := rfl
@[simp] theorem State.issue_resetSeen (es : List HostEvent) : (s.issue es).resetSeen = s.resetSeen := rfl
@[simp] theorem State.issue_params (es : List HostEvent) : (s.issue es).params = s.params := rfl
@[simp] theorem State.issue_pending (es : List HostEvent) : (s.issue es).pending = s.pending ++ es := rfl
@[simp] theorem State.issue_responses (es : List HostEvent) : (s.issue es).responses = s.responses := rfl
@[simp] theorem State.issue_freeIdx (es : List HostEvent) : (s.issue es).freeIdx = s.freeIdx := rfl

@[simp] theorem State.facing_crc (ts : List Txn) (rest : List HostEvent) : (s.facing ts rest).crc = s.crc := rfl
@[simp] theorem State.facing_seed (ts : List Txn) (rest : List HostEvent) : (s.facing ts rest).seed = s.seed := rfl
@[simp] theorem State.facing_hdrck (ts : List Txn) (rest : List HostEvent) : (s.facing ts rest).hdrck = s.hdrck := rfl
@[simp] theorem State.facing_resetSeen (ts : List Txn) (rest : List HostEvent) : (s.facing ts rest).resetSeen = s.resetSeen := rfl
@[simp] theorem State.facing_params (ts : List Txn) (rest : List HostEvent) : (s.facing ts rest).params = s.params := rfl
@[simp] theorem State.facing_pending (ts : List Txn) (rest : List HostEvent) : (s.facing ts rest).pending = ts.map HostEvent.transaction ++ rest := rfl
@[simp] theorem State.facing_responses (ts : List Txn) (rest : List HostEvent) : (s.facing ts rest).responses = s.responses := rfl
@[simp] theorem State.facing_freeIdx (ts : List Txn) (rest : List HostEvent) : (s.facing ts rest).freeIdx = s.freeIdx := rfl

end Fields

section Reset

@[simp] theorem State.reset_crc : State.reset.crc = resetHalf := rfl
@[simp] theorem State.elaborated_crc (p : Params) : (State.elaborated p).crc = resetHalf := rfl
@[simp] theorem State.reset_seed : State.reset.seed = resetHalf := rfl
@[simp] theorem State.elaborated_seed (p : Params) : (State.elaborated p).seed = resetHalf := rfl
@[simp] theorem State.reset_hdrck : State.reset.hdrck = resetHalf := rfl
@[simp] theorem State.elaborated_hdrck (p : Params) : (State.elaborated p).hdrck = resetHalf := rfl
@[simp] theorem State.reset_resetSeen : State.reset.resetSeen = true := rfl
@[simp] theorem State.elaborated_resetSeen (p : Params) : (State.elaborated p).resetSeen = true := rfl
@[simp] theorem State.reset_params : State.reset.params = Params.default := rfl
@[simp] theorem State.elaborated_params (p : Params) : (State.elaborated p).params = p := rfl
@[simp] theorem State.reset_pending : State.reset.pending = [] := rfl
@[simp] theorem State.elaborated_pending (p : Params) : (State.elaborated p).pending = [] := rfl
@[simp] theorem State.reset_responses : State.reset.responses = [] := rfl
@[simp] theorem State.elaborated_responses (p : Params) : (State.elaborated p).responses = [] := rfl
@[simp] theorem State.reset_freeIdx : State.reset.freeIdx = 0 := rfl
@[simp] theorem State.elaborated_freeIdx (p : Params) : (State.elaborated p).freeIdx = 0 := rfl

end Reset

end Sys2Proof.Machine
end

