-- ==== Sys2Proof/Laws/Ops.lean ====
section
/-!
SUPPORT. What the shared operations of Machine/Ops.lean can do, said once, and the inversion of `exec`: everything an
operation can leave behind. Provers cite these and do not unfold the operations.
-/

namespace Sys2Proof.Machine

variable {s s' : State}

/-- The gate answers a next state exactly past the first reset, and then the effect's state. -/
theorem accept_eq_next_iff (f : State → State) : accept s f = .next s' ↔ s.resetSeen = true ∧ s' = f s := by
  cases h : s.resetSeen <;> simp [accept, h, eq_comm]

/-- The gate refuses exactly before the first reset. -/
theorem accept_eq_refused_iff (f : State → State) (r : Refusal) :
    accept s f = .refused r ↔ s.resetSeen = false ∧ r = .beforeFirstReset := by
  cases h : s.resetSeen <;> simp [accept, h, eq_comm]

theorem completeRead_eq_next_iff (g : State → Word) :
    completeRead g s = .next s' ↔ s.resetSeen = true ∧ s' = s.respond (.readOkay (g s)) :=
  accept_eq_next_iff _

theorem completeWrite_eq_next_iff (f : State → State) :
    completeWrite f s = .next s' ↔ s.resetSeen = true ∧ s' = (f s).respond .writeOkay :=
  accept_eq_next_iff _

theorem raiseBusError_eq_next_iff (k : BusErrorKind) (rd : Bool) :
    raiseBusError k rd s = .next s' ↔
      s.resetSeen = true ∧ s' = s.respond (if rd then .readError k else .writeError k) :=
  accept_eq_next_iff _

/-- Past the first reset a read completes. -/
theorem completeRead_of_reset (g : State → Word) (h : s.resetSeen = true) :
    completeRead g s = .next (s.respond (.readOkay (g s))) := (completeRead_eq_next_iff g).mpr ⟨h, rfl⟩

/-- Past the first reset a write completes. -/
theorem completeWrite_of_reset (f : State → State) (h : s.resetSeen = true) :
    completeWrite f s = .next ((f s).respond .writeOkay) := (completeWrite_eq_next_iff f).mpr ⟨h, rfl⟩

/-- Everything an operation can leave behind: a read only answers; a write of CTRL, SEED, DATA8 or DATA32 has its effect and
answers; every other write only answers. -/
theorem exec_next_cases {i : Instr} (h : exec i s = .next s') :
    s.resetSeen = true ∧
      ((∃ v, s' = s.respond (.readOkay v)) ∨ s' = s.respond .writeOkay ∨
        (∃ w, i = .wrCtrl w ∧ s' = { s with
          hdrck := if latchBit w then s.crc else s.hdrck
          crc := if initBit w then s.seed else s.crc
          responses := s.responses ++ [.writeOkay] }) ∨
        (∃ w, i = .wrSeed w ∧ s' = { s with seed := seedField w, responses := s.responses ++ [.writeOkay] }) ∨
        (∃ w, i = .wrData8 w ∧
          s' = { s with crc := crcStep s.crc (byteField w), responses := s.responses ++ [.writeOkay] }) ∨
        (∃ w, i = .wrData32 w ∧
          s' = { s with crc := crcFold s.crc (lanes w), responses := s.responses ++ [.writeOkay] })) := by
  cases i with
  | wrCtrl w =>
    simp only [exec, execWrCtrl, completeWrite_eq_next_iff] at h
    obtain ⟨hs, rfl⟩ := h
    exact ⟨hs, .inr (.inr (.inl ⟨w, rfl, rfl⟩))⟩
  | wrSeed w =>
    simp only [exec, execWrSeed, completeWrite_eq_next_iff] at h
    obtain ⟨hs, rfl⟩ := h
    exact ⟨hs, .inr (.inr (.inr (.inl ⟨w, rfl, rfl⟩)))⟩
  | wrData8 w =>
    simp only [exec, execWrData8, completeWrite_eq_next_iff] at h
    obtain ⟨hs, rfl⟩ := h
    exact ⟨hs, .inr (.inr (.inr (.inr (.inl ⟨w, rfl, rfl⟩))))⟩
  | wrData32 w =>
    simp only [exec, execWrData32, completeWrite_eq_next_iff] at h
    obtain ⟨hs, rfl⟩ := h
    exact ⟨hs, .inr (.inr (.inr (.inr (.inr ⟨w, rfl, rfl⟩))))⟩
  | wrCrc w =>
    simp only [exec, execWrCrc, completeWrite_eq_next_iff] at h
    obtain ⟨hs, rfl⟩ := h
    exact ⟨hs, .inr (.inl rfl)⟩
  | wrHdr n w =>
    simp only [exec, execWrHdr, completeWrite_eq_next_iff] at h
    obtain ⟨hs, rfl⟩ := h
    exact ⟨hs, .inr (.inl rfl)⟩
  | rdCtrl | rdSeed | rdCrc | rdData8 | rdData32 | rdHdr0 | rdHdr1 | rdHdr2 | rdHdr3 =>
    simp only [exec, execRdCtrl, execRdSeed, execRdCrc, execRdData8, execRdData32, execRdHdr0, execRdHdr1, execRdHdr2,
      execRdHdr3, completeRead_eq_next_iff] at h
    obtain ⟨hs, rfl⟩ := h
    exact ⟨hs, .inl ⟨_, rfl⟩⟩

end Sys2Proof.Machine
end

