-- ==== Sys2Proof/Laws/PerInstr.lean ====
section
/-!
SUPPORT. Per-instruction family TableRow: the descriptor of a well-formed operation belongs to the row of the opcode table
that carries its mnemonic (30_encoding.md R63).
-/

namespace Sys2Proof.Laws.TableRow

/-- The mnemonic of an operation, as the opcode table spells it. -/
def mnemonic : Instr → String
  | .rdCtrl     => "RD_CTRL"
  | .wrCtrl _   => "WR_CTRL"
  | .rdSeed     => "RD_SEED"
  | .wrSeed _   => "WR_SEED"
  | .rdCrc      => "RD_CRC"
  | .wrCrc _    => "WR_CRC"
  | .rdData8    => "RD_DATA8"
  | .wrData8 _  => "WR_DATA8"
  | .rdData32   => "RD_DATA32"
  | .wrData32 _ => "WR_DATA32"
  | .rdHdr0     => "RD_HDR0"
  | .rdHdr1     => "RD_HDR1"
  | .rdHdr2     => "RD_HDR2"
  | .rdHdr3     => "RD_HDR3"
  | .wrHdr _ _  => "WR_HDR"

/-- The rows of the opcode table that an operation's descriptor belongs to are the one row of its mnemonic. -/
def Statement (i : Instr) : Prop :=
  i.wf = true → (opcodeTable.filter fun r => r.matches (encodeDesc i)).map Row.mnemonic = [mnemonic i]

theorem rdCtrl : Statement .rdCtrl := by intro _; decide
theorem wrCtrl (w : Word) : Statement (.wrCtrl w) := by intro _; simp only [encodeDesc, mnemonic]; decide
theorem rdSeed : Statement .rdSeed := by intro _; decide
theorem wrSeed (w : Word) : Statement (.wrSeed w) := by intro _; simp only [encodeDesc, mnemonic]; decide
theorem rdCrc : Statement .rdCrc := by intro _; decide
theorem wrCrc (w : Word) : Statement (.wrCrc w) := by intro _; simp only [encodeDesc, mnemonic]; decide
theorem rdData8 : Statement .rdData8 := by intro _; decide
theorem wrData8 (w : Word) : Statement (.wrData8 w) := by intro _; simp only [encodeDesc, mnemonic]; decide
theorem rdData32 : Statement .rdData32 := by intro _; decide
theorem wrData32 (w : Word) : Statement (.wrData32 w) := by intro _; simp only [encodeDesc, mnemonic]; decide
theorem rdHdr0 : Statement .rdHdr0 := by intro _; decide
theorem rdHdr1 : Statement .rdHdr1 := by intro _; decide
theorem rdHdr2 : Statement .rdHdr2 := by intro _; decide
theorem rdHdr3 : Statement .rdHdr3 := by intro _; decide
theorem wrHdr (n : Nat) (w : Word) : Statement (.wrHdr n w) := by
  intro h
  have h4 : n < 4 := by simpa [Instr.wf] using h
  have h0 : n = 0 ∨ n = 1 ∨ n = 2 ∨ n = 3 := by omega
  rcases h0 with rfl | rfl | rfl | rfl <;> simp only [encodeDesc, mnemonic] <;> decide

end Sys2Proof.Laws.TableRow
end

