-- ==== Sys2Proof/Laws/Step.lean ====
section
/-! SUPPORT. What a step can do, said once: it idles, or performs the oldest pending event. -/

namespace Sys2Proof.Machine

variable {s s' : State}

theorem step_idle (h : s.pending = []) : step s = .next s := by simp [step, performNext, h]

theorem step_event {e : HostEvent} {es : List HostEvent} (h : s.pending = e :: es) :
    step s = performEvent e { s with pending := es } := by simp [step, performNext, h]

/-- The inversion of a step: it idles with nothing pending, or takes the oldest event off the list and is a reset, a
power-up, a defined operation or a BusError. -/
theorem step_next_cases (h : step s = .next s') :
    (s.pending = [] ∧ s' = s) ∨
      ∃ e es, s.pending = e :: es ∧
        ((e = .reset ∧ s' = State.applyReset { s with pending := es }) ∨
          (e = .powerUp ∧ s' = State.powerUp { s with pending := es }) ∨
          (∃ t i, e = .transaction t ∧ decode t = .instr i ∧ exec i { s with pending := es } = .next s') ∨
          (∃ t k, e = .transaction t ∧ decode t = .illegal k ∧ s.resetSeen = true ∧
            s' = State.respond { s with pending := es } (if t.isRead then .readError k else .writeError k))) := by
  cases hp : s.pending with
  | nil =>
    rw [step_idle hp] at h
    exact .inl ⟨rfl, by injection h with h; exact h.symm⟩
  | cons e es =>
    rw [step_event hp] at h
    refine .inr ⟨e, es, rfl, ?_⟩
    cases e with
    | reset => exact .inl ⟨rfl, by injection h with h; exact h.symm⟩
    | powerUp => exact .inr (.inl ⟨rfl, by injection h with h; exact h.symm⟩)
    | transaction t =>
      cases hd : decode t with
      | instr i =>
        simp only [performEvent, performTransaction, hd] at h
        exact .inr (.inr (.inl ⟨t, i, rfl, hd, h⟩))
      | illegal k =>
        simp only [performEvent, performTransaction, hd] at h
        obtain ⟨hs, hs'⟩ := (raiseBusError_eq_next_iff k t.isRead).mp h
        exact .inr (.inr (.inr ⟨t, k, rfl, hd, hs, hs'⟩))

end Sys2Proof.Machine
end

