-- ==== Sys2Proof/Laws/Perform.lean ====
section
/-!
SUPPORT. What any transaction, legal or not, does past the first reset, in the terms of Safety.lean: the bytes it feeds,
whether it starts a computation, latches, or writes SEED. Claims about lists of transactions go through this one lemma.
-/

namespace Sys2Proof.Machine

/-- The value a transaction leaves in SEED. -/
def seedAfter (t : Txn) (d : Half) : Half :=
  match decode t with
  | .instr (.wrSeed w) => seedField w
  | _                  => d

/-- A transaction that starts a computation feeds nothing. -/
theorem fedBytes_of_starts {t : Txn} (h : startsComputation t = true) : fedBytes t = [] := by
  unfold startsComputation at h
  unfold fedBytes
  split at h
  · next w hd => rw [hd]
  · cases h

/-- Past the first reset every transaction completes; what it leaves in each field. -/
theorem performTransaction_effect (t : Txn) (s : State) (hs : s.resetSeen = true) :
    ∃ s' r, performTransaction t s = .next s' ∧
      s'.crc = (if startsComputation t then s.seed else crcFold s.crc (fedBytes t)) ∧
      s'.seed = seedAfter t s.seed ∧
      s'.hdrck = (if latches t then s.crc else s.hdrck) ∧
      s'.resetSeen = true ∧ s'.params = s.params ∧ s'.pending = s.pending ∧ s'.freeIdx = s.freeIdx ∧
      s'.responses = s.responses ++ [r] := by
  unfold performTransaction startsComputation fedBytes latches seedAfter
  cases hd : decode t with
  | illegal k =>
    refine ⟨_, if t.isRead then .readError k else .writeError k,
      (raiseBusError_eq_next_iff k t.isRead).mpr ⟨hs, rfl⟩, ?_⟩
    simp [hs]
  | instr i =>
    cases i <;>
      simp only [exec, execWrCtrl, execWrSeed, execWrCrc, execWrData8, execWrData32, execWrHdr, execRdCtrl, execRdSeed,
        execRdCrc, execRdData8, execRdData32, execRdHdr0, execRdHdr1, execRdHdr2, execRdHdr3,
        completeRead_of_reset _ hs, completeWrite_of_reset _ hs] <;>
      exact ⟨_, _, rfl, rfl, rfl, rfl, hs, rfl, rfl, rfl, rfl⟩

end Sys2Proof.Machine
end

