-- ==== Sys2Proof/Laws/Run.lean ====
section
/-! SUPPORT. Running several steps (Safety.lean's `run`, which is the host's run of the core). -/

namespace Sys2Proof.Machine

theorem run_zero (s : State) : run 0 s = .next s := rfl

/-- A run, by its first step. -/
theorem run_succ (n : Nat) (s : State) :
    run (n + 1) s =
      match step s with
      | .next s'   => run n s'
      | .fault r   => .fault r
      | .refused r => .refused r := by
  have e : Host.Core.step Sys2Proof.core s = step s := rfl
  simp only [run, Host.Core.run]
  rw [e]
  cases step s <;> rfl

/-- A run whose first step answers a next state goes on from there. -/
theorem run_succ_of_next {n : Nat} {s s' : State} (h : step s = .next s') : run (n + 1) s = run n s' := by
  rw [run_succ, h]

/-- Two runs, one after the other. -/
theorem run_add_of_next {m n : Nat} {s t : State} (h : run m s = .next t) : run (m + n) s = run n t := by
  induction m generalizing s with
  | zero =>
    rw [run_zero] at h
    injection h with h
    rw [h, Nat.zero_add]
  | succ m ih =>
    rw [run_succ] at h
    rw [Nat.add_right_comm, run_succ]
    cases hs : step s with
    | next u => rw [hs] at h; exact ih h
    | fault r => cases r
    | refused r => rw [hs] at h; cases h

/-- A step of a state that faces a list of transactions performs the first of them. -/
theorem step_facing_cons (s : State) (t : Txn) (ts : List Txn) (rest : List HostEvent) :
    step (s.facing (t :: ts) rest) = performTransaction t (s.facing ts rest) := rfl

end Sys2Proof.Machine
end

