-- ==== Sys2Proof/Tests/Slice0.lean ====
section
/-!
SUPPORT. Small tests of one step each, with results taken from spec/95_test_vectors.md (V-…) or worked from the rule named,
and, for each statement with hypotheses, a witness that meets them together.
-/

namespace Sys2Proof.Tests

open Sys2Proof Sys2Proof.Machine

/-- A state past its first reset with the given CRC, SEED and HDRCK. -/
def at3 (c d h : Half) : State := { State.reset with crc := c, seed := d, hdrck := h }

/-- CRC, SEED and HDRCK after an outcome, and the responses given. -/
def seen (o : Host.Outcome State Fault Refusal) : Option (Half × Half × Half × List Response) :=
  match o with
  | .next s    => some (s.crc, s.seed, s.hdrck, s.responses)
  | .fault _   => none
  | .refused _ => none

/-- Is an outcome the refusal before the first reset? -/
def isRefused (o : Host.Outcome State Fault Refusal) : Bool :=
  match o with
  | .refused .beforeFirstReset => true
  | _ => false

/-! ### Well-formedness: an ill-formed term for each check -/

theorem test_wf_wrHdr_index_4_refused : (Instr.wrHdr 4 0#32).wf = false := by decide
theorem test_wf_wrHdr_index_3 : (Instr.wrHdr 3 0#32).wf = true := by decide
theorem test_baseWf_not_multiple_refused : baseWf 0x40000080 = false := by decide
theorem test_baseWf_multiple : baseWf 0x40000100 = true := by decide

/-! ### Decoding: descriptors written bit by bit from 30_encoding.md R61 and R63 as SIZE, WE, OFF -/

theorem test_decode_rdCtrl : decodeTableWord 16 0b10_0_00000000 = some .rdCtrl := by decide
theorem test_decode_wrCtrl : decodeTableWord 48 (0b10_1_00000000 + 2 ^ 16 * 3) = some (.wrCtrl 3#32) := by decide
theorem test_decode_rdSeed : decodeTableWord 16 0b10_0_00000100 = some .rdSeed := by decide
theorem test_decode_wrSeed :
    decodeTableWord 48 (0b10_1_00000100 + 2 ^ 16 * 0xABCD1234) = some (.wrSeed 0xABCD1234#32) := by decide
theorem test_decode_rdCrc : decodeTableWord 16 0b10_0_00001000 = some .rdCrc := by decide
theorem test_decode_wrCrc : decodeTableWord 16 0b10_1_00001000 = some (.wrCrc 0#32) := by decide
theorem test_decode_rdData8 : decodeTableWord 16 0b10_0_00001100 = some .rdData8 := by decide
theorem test_decode_wrData8 : decodeTableWord 16 0b10_1_00001100 = some (.wrData8 0#32) := by decide
theorem test_decode_rdData32 : decodeTableWord 16 0b10_0_00010000 = some .rdData32 := by decide
theorem test_decode_wrData32 : decodeTableWord 16 0b10_1_00010000 = some (.wrData32 0#32) := by decide
theorem test_decode_rdHdr0 : decodeTableWord 16 0b10_0_00100000 = some .rdHdr0 := by decide
theorem test_decode_rdHdr1 : decodeTableWord 16 0b10_0_00100100 = some .rdHdr1 := by decide
theorem test_decode_rdHdr2 : decodeTableWord 16 0b10_0_00101000 = some .rdHdr2 := by decide
theorem test_decode_rdHdr3 : decodeTableWord 16 0b10_0_00101100 = some .rdHdr3 := by decide
theorem test_decode_wrHdr0 : decodeTableWord 16 0b10_1_00100000 = some (.wrHdr 0 0#32) := by decide
theorem test_decode_wrHdr3 : decodeTableWord 16 0b10_1_00101100 = some (.wrHdr 3 0#32) := by decide
theorem test_decode_bit_11_refused : decodeTableWord 16 0b100000_0_00000000 = none := by decide
theorem test_decode_read_with_data_refused : decodeTableWord 48 (0b10_0_00000000 + 2 ^ 16) = none := by decide

/-- V-D60 to V-D69: the kinds of the illegal descriptors, WR.B [0x31] among them (priority). -/
theorem test_decode_illegal_kinds :
    [0x10C#11, 0x208#11, 0x700#11, 0x409#11, 0x50E#11, 0x414#11, 0x530#11, 0x4FC#11, 0x131#11, 0x42E#11].map
        (fun d => decode (Txn.ofDesc d 0#32)) =
      [.illegal .badSize, .illegal .badSize, .illegal .badSize, .illegal .misaligned, .illegal .misaligned,
        .illegal .unmapped, .illegal .unmapped, .illegal .unmapped, .illegal .badSize, .illegal .misaligned] := by decide

/-- Every offset at which an unmapped range begins or ends (30_encoding.md R64). -/
theorem test_decode_unmapped_edges :
    [0x14#8, 0x1C#8, 0x30#8, 0xFC#8].map (fun o => decode (.write .word o 0#32)) =
      [.illegal .unmapped, .illegal .unmapped, .illegal .unmapped, .illegal .unmapped] := by decide

theorem test_encode_wrHdr2 : encode (.wrHdr 2 7#32) = .write .word 0x28#8 7#32 := by decide
theorem test_encode_rdData32_desc : (encode .rdData32).desc = 0x410#11 := by decide

/-! ### crc_step and crc_fold -/

/-- V-D1 to V-D7. -/
theorem test_crcStep_vectors :
    [crcStep 0xFFFF#16 0x00#8, crcStep 0xFFFF#16 0x01#8, crcStep 0x0000#16 0x01#8, crcStep 0x1234#16 0xAB#8,
        crcStep 0xFFFF#16 0xFF#8, crcStep 0x0000#16 0x00#8, crcStep 0xF01F#16 0x00#8] =
      [0xE1F0#16, 0xF1D1#16, 0x1021#16, 0x02F2#16, 0xFF00#16, 0x0000#16, 0xF01F#16] := by decide

/-- V-D12: the bytes of "123456789" from seeds 0xFFFF, 0x0000, 0x1234 and 0x8000. -/
theorem test_crcFold_check_string :
    [0xFFFF#16, 0x0000#16, 0x1234#16, 0x8000#16].map
        (fun v => crcFold v [0x31#8, 0x32#8, 0x33#8, 0x34#8, 0x35#8, 0x36#8, 0x37#8, 0x38#8, 0x39#8]) =
      [0x29B1#16, 0x31C3#16, 0xEDEB#16, 0x8E71#16] := by decide

/-- Row b[7:4] = 0xA of the table of 95_test_vectors.md 2.4, entries 0, 7 and F, by the polynomial form of R94 too. -/
theorem test_bitwise1021_table :
    [bitwise1021 0#16 0xA0#8, bitwise1021 0#16 0xA7#8, bitwise1021 0#16 0xAF#8] = [0xB5EA#16, 0xC50D#16, 0x4405#16] := by
  decide

/-! ### Operations -/

/-- V-D26 with the registers of V-D20. -/
theorem test_rdCtrl_reads_zero :
    seen (exec .rdCtrl (at3 0x89C3#16 0x1234#16 0xFFFF#16)) =
      some (0x89C3#16, 0x1234#16, 0xFFFF#16, [.readOkay 0#32]) := by decide

/-- V-D23: LATCH takes the CRC from before INIT. -/
theorem test_wrCtrl_latch_before_init :
    seen (exec (.wrCtrl 3#32) (at3 0x89C3#16 0x1234#16 0xFFFF#16)) =
      some (0x1234#16, 0x1234#16, 0x89C3#16, [.writeOkay]) := by decide

/-- V-D24: the reserved bits do nothing. -/
theorem test_wrCtrl_reserved_bits :
    seen (exec (.wrCtrl 0xFFFFFFFC#32) (at3 0x89C3#16 0x1234#16 0xFFFF#16)) =
      some (0x89C3#16, 0x1234#16, 0xFFFF#16, [.writeOkay]) := by decide

/-- V-D31. -/
theorem test_rdSeed :
    seen (exec .rdSeed (at3 0xFFFF#16 0x1234#16 0xFFFF#16)) =
      some (0xFFFF#16, 0x1234#16, 0xFFFF#16, [.readOkay 0x00001234#32]) := by decide

/-- V-D30. -/
theorem test_wrSeed_upper_half_ignored :
    seen (exec (.wrSeed 0xABCD1234#32) State.reset) = some (0xFFFF#16, 0x1234#16, 0xFFFF#16, [.writeOkay]) := by decide

/-- V-D33. -/
theorem test_rdCrc :
    seen (exec .rdCrc (at3 0x1234#16 0xFFFF#16 0xFFFF#16)) =
      some (0x1234#16, 0xFFFF#16, 0xFFFF#16, [.readOkay 0x00001234#32]) := by decide

/-- V-D32. -/
theorem test_wrCrc_ignored :
    seen (exec (.wrCrc 0x0000FFFF#32) (at3 0x1234#16 0xFFFF#16 0xFFFF#16)) =
      some (0x1234#16, 0xFFFF#16, 0xFFFF#16, [.writeOkay]) := by decide

/-- V-D48. -/
theorem test_rdData8_feeds_nothing :
    seen (exec .rdData8 (at3 0x1234#16 0x5678#16 0x9ABC#16)) =
      some (0x1234#16, 0x5678#16, 0x9ABC#16, [.readOkay 0#32]) := by decide

/-- V-D41: the upper bits of wdata are ignored. -/
theorem test_wrData8_upper_bits_ignored :
    seen (exec (.wrData8 0xFFFFFF00#32) State.reset) = some (0xE1F0#16, 0xFFFF#16, 0xFFFF#16, [.writeOkay]) := by decide

/-- V-D48. -/
theorem test_rdData32_feeds_nothing :
    seen (exec .rdData32 (at3 0x1234#16 0x5678#16 0x9ABC#16)) =
      some (0x1234#16, 0x5678#16, 0x9ABC#16, [.readOkay 0#32]) := by decide

/-- V-D44. -/
theorem test_wrData32_lane_0_first :
    seen (exec (.wrData32 0x04030201#32) State.reset) = some (0x89C3#16, 0xFFFF#16, 0xFFFF#16, [.writeOkay]) := by decide

/-- V-D45: the lane-reversed word. -/
theorem test_wrData32_reversed :
    seen (exec (.wrData32 0x01020304#32) State.reset) = some (0x6122#16, 0xFFFF#16, 0xFFFF#16, [.writeOkay]) := by decide

/-- V-D57: parameters other than the defaults, and HDRCK = 0x1234. -/
def v57 : State :=
  { at3 0#16 0#16 0x1234#16 with
    params := { Params.default with deviceType := 0x0052#16, deviceRev := 0x0001#16, appVersion := 0x01020304#32 } }

theorem test_rdHdr0_device_words : readValue .rdHdr0 v57 = some 0x00010052#32 := by decide
theorem test_rdHdr1_app_version : readValue .rdHdr1 v57 = some 0x01020304#32 := by decide
theorem test_rdHdr2_companion : readValue .rdHdr2 v57 = some 0x005A0002#32 := by decide
theorem test_rdHdr3_latched_checksum : readValue .rdHdr3 v57 = some 0x12340064#32 := by decide

/-- V-D57: the record's bytes. -/
theorem test_record_bytes :
    recordBytes v57.params v57.hdrck =
      [0x52#8, 0x00#8, 0x01#8, 0x00#8, 0x04#8, 0x03#8, 0x02#8, 0x01#8,
        0x02#8, 0x00#8, 0x5A#8, 0x00#8, 0x64#8, 0x00#8, 0x34#8, 0x12#8] := by decide

/-- V-D55: a write of HDR3 is ignored. -/
theorem test_wrHdr3_ignored :
    seen (exec (.wrHdr 3 0#32) (at3 0x1#16 0x2#16 0x89C3#16)) = some (0x1#16, 0x2#16, 0x89C3#16, [.writeOkay]) := by decide

/-! ### Steps -/

/-- V-D62: WR.X [0x00], 1 is an error and no INIT happens. -/
theorem test_step_bad_size_write :
    seen (step ((at3 0x1#16 0x2#16 0x3#16).facing [.write .reserved 0x00#8 1#32] [])) =
      some (0x1#16, 0x2#16, 0x3#16, [.writeError .badSize]) := by decide

/-- V-D63: RD.W [0x09] answers ERROR with rdata 0. -/
theorem test_step_misaligned_read :
    seen (step ((at3 0x1#16 0x2#16 0x3#16).facing [.read .word 0x09#8] [])) =
      some (0x1#16, 0x2#16, 0x3#16, [.readError .misaligned]) ∧
    (Response.readError .misaligned).hostView = (.error, some 0#32) := by decide

/-- V-D71, with the table word of RD_CRC as the first transaction after reset. -/
theorem test_first_step_after_reset :
    seen (step (State.reset.withFetchWord 16 0x408)) =
      some (0xFFFF#16, 0xFFFF#16, 0xFFFF#16, [.readOkay 0x0000FFFF#32]) := by decide

/-- A DATA8 write laid out whole: descriptor, then wdata (V-D43). -/
theorem test_withFetchWord_write :
    seen (step ((at3 0#16 0#16 0#16).withFetchWord 48 (0x50C + 2 ^ 16 * 1))) =
      some (0x1021#16, 0#16, 0#16, [.writeOkay]) := by decide

/-- 70_reset_and_hazards.md R161: after power-up a transaction is refused. -/
theorem test_refused_after_powerUp :
    isRefused (step ((State.powerUp State.reset).facing [.read .word 0x20#8] [])) = true := by decide

/-- 70_reset_and_hazards.md R162: a reset between transactions. -/
theorem test_reset_event :
    seen (step { at3 0x1#16 0x2#16 0x3#16 with pending := [.reset] }) =
      some (0xFFFF#16, 0xFFFF#16, 0xFFFF#16, []) := by decide

/-- 20_memory.md R47, with BASE = 0x40000100. -/
theorem test_memRead_in_window : memRead 0x40000100 0x4000012C .word = some (.read .word 0x2C#8) := by decide
theorem test_memRead_below_window : memRead 0x40000100 0x400000FC .word = none := by decide

/-! ### Assembler text (30_encoding.md R66, R67) -/

theorem test_readLine_named_read : readLine ['R', 'D', ' ', 'H', 'D', 'R', '3'] = some (.rd .hdr3) := by decide
theorem test_readLine_named_write :
    readLine ['W', 'R', ' ', 'S', 'E', 'E', 'D', ',', ' ', '0', 'x', '1', 'D', '0', 'F'] =
      some (.wr .seed 0x1D0F#32) := by decide
theorem test_readLine_sized_write :
    readLine ['W', 'R', '.', 'B', ' ', '[', '0', 'x', '0', 'C', ']', ',', ' ', '0', 'x', '5', '5'] =
      some (.wrAt (some .byte) 0x0C#8 0x55#32) := by decide
theorem test_readLine_feed4 :
    readLine ['F', 'E', 'E', 'D', '4', ' ', '1', ',', '2', ',', '3', ',', '4'] =
      some (.pseudo (.feed4 1#8 2#8 3#8 4#8)) := by decide

/-- R67: FEED4 puts b0 in lane 0. -/
theorem test_assemble_feed4 :
    assemble [.pseudo (.feed4 1#8 2#8 3#8 4#8)] = [.write .word 0x10#8 0x04030201#32] := by decide

/-! ### Witnesses: a state and operands that meet all hypotheses of a statement together -/

theorem witness_StepRunsDecodedTransaction :
    (State.reset.facing [.read .word 0x08#8] []).pending = .transaction (.read .word 0x08#8) :: [] ∧
      decode (.read .word 0x08#8) = .instr .rdCrc := by decide

theorem witness_BusAddressesOfTheWindow_aligned :
    baseWf 0x40000100 = true ∧ memRead 0x40000100 (0x40000100 + (0x09#8).toNat) .word = some (.read .word 0x09#8) := by
  decide
theorem witness_BusAddressesOfTheWindow_outside : baseWf 0x40000100 = true ∧ 0x40000200 / 256 ≠ 0x40000100 / 256 := by
  decide

theorem witness_IdleStepChangesNothing : State.reset.pending = [] := rfl

/-- The hypotheses of BusErrorHasNoEffect and of the last clause of IllegalDescriptorsAreClassified. -/
theorem witness_BusErrorHasNoEffect :
    State.reset.resetSeen = true ∧
      (State.reset.facing [.read .byte 0x0C#8] []).pending = .transaction (.read .byte 0x0C#8) :: [] ∧
      (∀ r ∈ opcodeTable, r.matches (Txn.read .byte 0x0C#8).desc = false) ∧
      decode (.read .byte 0x0C#8) = .illegal .badSize := by decide
theorem witness_BusErrorHasNoEffect_step :
    ∃ s', step (State.reset.facing [.read .byte 0x0C#8] []) = .next s' := ⟨_, rfl⟩

/-- Also the reset hypotheses of CrcIsTheFoldSinceInit and ComputationContract. -/
theorem witness_ResetSetsTheRegisters :
    ∃ s', ({ State.reset with pending := [.reset] } : State).pending = .reset :: [] ∧
      step { State.reset with pending := [.reset] } = .next s' := ⟨_, rfl, rfl⟩

theorem witness_RefusedBeforeFirstReset :
    ((State.powerUp State.reset).facing [.read .word 0x20#8] []).resetSeen = false ∧
      ((State.powerUp State.reset).facing [.read .word 0x20#8] []).pending =
        .transaction (.read .word 0x20#8) :: [] := ⟨rfl, rfl⟩

theorem witness_PowerUpNeedsAReset :
    ({ State.reset with pending := [.powerUp] } : State).pending = .powerUp :: [] := rfl

/-- The hypothesis of every statement about one operation past the first reset: RdCtrlReadsZero, WrCtrlLatchesThenInits,
RdSeedReadsSeed, WrSeedWritesSeedOnly, RdCrcReadsRunningCrc, WrCrcIsIgnored, WrData8FeedsOneByte, RdData8ReadsZero,
WrData32FeedsFourBytes, RdData32ReadsZero, HeaderParameterReads, WrHdrIsIgnored, RecordBytesAreTheHeaderLanes,
RecordAfterReset, BuildHeaderContract, EveryOperationCompletesOkay. -/
theorem witness_past_first_reset : (at3 0x89C3#16 0x1234#16 0xFFFF#16).resetSeen = true := rfl

theorem witness_WrHdrIsIgnored_index : (3 : Nat) < 4 ∧ (Instr.wrHdr 3 0#32).wf = true := by decide

theorem witness_HeaderParameterReads_step : ∃ s', step State.reset = .next s' := ⟨_, rfl⟩

theorem witness_RdHdr3ReadsLatchedChecksum :
    ∃ s', (State.reset.facing [feedTxn 0x5A#8] []).pending = .transaction (feedTxn 0x5A#8) :: [] ∧
      latches (feedTxn 0x5A#8) = false ∧ step (State.reset.facing [feedTxn 0x5A#8] []) = .next s' :=
  ⟨_, rfl, by decide, rfl⟩
theorem witness_RdHdr3ReadsLatchedChecksum_reset :
    ∃ s', ({ State.reset with pending := [.reset] } : State).pending = .reset :: [] ∧
      step { State.reset with pending := [.reset] } = .next s' := ⟨_, rfl, rfl⟩

theorem witness_CrcIsTheFoldSinceInit :
    State.reset.resetSeen = true ∧ startsComputation (wrReg .ctrl 0x1#32) = true ∧
      ∀ u ∈ [feedTxn 0x5A#8, rdReg .crc, .read .byte 0x0C#8], startsComputation u = false := by decide

theorem witness_ComputationContract :
    State.reset.resetSeen = true ∧
      ∀ u ∈ [feedTxn 0x5A#8, wrReg .data32 0x04030201#32], startsComputation u = false := by decide

theorem witness_CrcDependsOnTheBytesAlone :
    State.reset.resetSeen = true ∧
      (∀ u ∈ [feedTxn 1#8, feedTxn 2#8, rdReg .crc, feedTxn 3#8, feedTxn 4#8], startsComputation u = false) ∧
      (∀ u ∈ [wrReg .data32 0x04030201#32], startsComputation u = false) ∧
      [feedTxn 1#8, feedTxn 2#8, rdReg .crc, feedTxn 3#8, feedTxn 4#8].flatMap fedBytes =
        [wrReg .data32 0x04030201#32].flatMap fedBytes := by decide

theorem witness_PseudoInstructionEffects :
    State.reset.resetSeen = true ∧ (∀ u ∈ [wrReg .data32 0x04030201#32, feedTxn 5#8], fedBytes u ≠ []) ∧
      [wrReg .data32 0x04030201#32, feedTxn 5#8].flatMap fedBytes = [1#8, 2#8, 3#8, 4#8, 5#8] := by decide

theorem witness_FrameOfEveryOperation_crc : ∃ s', exec (.wrData8 0#32) State.reset = .next s' ∧ s'.crc ≠ State.reset.crc :=
  ⟨_, rfl, by decide⟩
theorem witness_FrameOfEveryOperation_seed :
    ∃ s', exec (.wrSeed 0#32) State.reset = .next s' ∧ s'.seed ≠ State.reset.seed := ⟨_, rfl, by decide⟩
theorem witness_FrameOfEveryOperation_hdrck :
    ∃ s', exec (.wrCtrl 2#32) (at3 1#16 2#16 3#16) = .next s' ∧ s'.hdrck ≠ (at3 1#16 2#16 3#16).hdrck :=
  ⟨_, rfl, by decide⟩

theorem witness_OnlyTheNamedEventsWriteARegister_crc :
    ∃ s', step (State.reset.facing [feedTxn 0#8] []) = .next s' ∧ s'.crc ≠ (State.reset.facing [feedTxn 0#8] []).crc :=
  ⟨_, rfl, by decide⟩
theorem witness_OnlyTheNamedEventsWriteARegister_seed :
    ∃ s', step (State.reset.facing [wrReg .seed 1#32] []) = .next s' ∧ s'.seed ≠ State.reset.seed := ⟨_, rfl, by decide⟩
theorem witness_OnlyTheNamedEventsWriteARegister_hdrck :
    ∃ s', step ((at3 1#16 2#16 3#16).facing [wrReg .ctrl 2#32] []) = .next s' ∧ s'.hdrck ≠ 3#16 := ⟨_, rfl, by decide⟩

theorem witness_NoSideEffects_read :
    State.reset.resetSeen = true ∧
      (State.reset.facing [.read .half 0x08#8] []).pending = .transaction (.read .half 0x08#8) :: [] ∧
      (Txn.read .half 0x08#8).isRead = true := by decide
theorem witness_NoSideEffects_write :
    decode (wrReg .crc 5#32) = .instr (.wrCrc 5#32) ∧ decode (wrReg .hdr1 5#32) = .instr (.wrHdr 1 5#32) ∧
      decode (wrReg .ctrl 4#32) = .instr (.wrCtrl 4#32) ∧ (4#32).extractLsb' 0 2 = 0#2 := by decide
theorem witness_NoSideEffects_seed :
    ∃ a b, exec (.wrSeed 0x1D0F#32) State.reset = .next a ∧ exec (.wrSeed 0x1D0F#32) a = .next b := ⟨_, _, rfl, rfl⟩

theorem witness_Ready : Ready (State.reset.facing [feedTxn 0#8, .read .byte 0x01#8] [.reset]) :=
  ⟨rfl, by decide⟩
theorem witness_StepKeepsReadyAndParameters :
    ∃ s', (Ready (State.reset.facing [feedTxn 0#8] []) ∧ (State.reset.facing [feedTxn 0#8] []).params = Params.default) ∧
      step (State.reset.facing [feedTxn 0#8] []) = .next s' := ⟨_, ⟨⟨rfl, by decide⟩, rfl⟩, rfl⟩

theorem witness_ReadAfterWriteSeesTheWrite :
    (∃ s', exec (.wrData32 3#32) State.reset = .next s') ∧ (∃ s', exec (.wrData8 3#32) State.reset = .next s') ∧
      (∃ s', exec (.wrSeed 3#32) State.reset = .next s') ∧
      (∃ s', exec (.wrCtrl 3#32) State.reset = .next s') ∧ initBit 3#32 = true ∧ latchBit 3#32 = true :=
  ⟨⟨_, rfl⟩, ⟨_, rfl⟩, ⟨_, rfl⟩, ⟨_, rfl⟩, by decide, by decide⟩

theorem witness_ReadsObserveTheWholeState :
    let s := at3 1#16 2#16 3#16
    let t := { at3 1#16 2#16 3#16 with freeIdx := 5 }
    s.resetSeen = true ∧ t.resetSeen = true ∧ readValue .rdCrc s = readValue .rdCrc t ∧
      readValue .rdSeed s = readValue .rdSeed t ∧ readValue .rdHdr3 s = readValue .rdHdr3 t := by decide

end Sys2Proof.Tests
end

section
/-!
PROOFS. The running CRC over a list of transactions (10_state.md R21): each transaction that starts no computation folds
the bytes it feeds into CRC, so a list of them folds all its bytes.
-/

namespace Sys2Proof.Machine

variable {s : State}

/-- A state whose pending list is already what `facing` would put there. -/
theorem State.facing_eq_self {ts : List Txn} {rest : List HostEvent}
    (h : s.pending = ts.map HostEvent.transaction ++ rest) : s.facing ts rest = s := by
  simp only [State.facing, ← h]

/-- Past the first reset a step performs the first transaction faced, and the block then faces the others. -/
theorem step_facing_cons_effect (t : Txn) (ts : List Txn) (rest : List HostEvent) (hs : s.resetSeen = true) :
    ∃ s' : State, step (s.facing (t :: ts) rest) = .next (s'.facing ts rest) ∧ s'.resetSeen = true ∧
      s'.crc = if startsComputation t then s.seed else crcFold s.crc (fedBytes t) := by
  obtain ⟨s', _, hperf, hcrc, _, _, hseen, _, hpend, _⟩ := performTransaction_effect t (s.facing ts rest) hs
  refine ⟨s', ?_, hseen, hcrc⟩
  rw [step_facing_cons, State.facing_eq_self hpend, hperf]

/-- Past the first reset, a list of transactions without an INIT runs to its end and folds every byte it feeds into CRC
(10_state.md R21). -/
theorem run_facing_crc_of_no_start {ts : List Txn} (rest : List HostEvent) (hs : s.resetSeen = true)
    (hts : ∀ u ∈ ts, startsComputation u = false) :
    ∃ s' : State, run ts.length (s.facing ts rest) = .next s' ∧ s'.resetSeen = true ∧ s'.pending = rest ∧
      s'.crc = crcFold s.crc (ts.flatMap fedBytes) := by
  induction ts generalizing s with
  | nil => exact ⟨s.facing [] rest, run_zero _, hs, rfl, rfl⟩
  | cons t ts ih =>
    obtain ⟨ht, hts⟩ := List.forall_mem_cons.mp hts
    obtain ⟨s₁, hstep, hseen, hcrc⟩ := step_facing_cons_effect t ts rest hs
    obtain ⟨s', hrun, hseen', hpend, hfold⟩ := ih hseen hts
    refine ⟨s', (run_succ_of_next hstep).trans hrun, hseen', hpend, ?_⟩
    simp [hfold, hcrc, ht]

/-- Past the first reset RD CRC returns the CRC, zero-extended (40_crc_engine.md R85). -/
theorem readValue_rdCrc (hs : s.resetSeen = true) : readValue .rdCrc s = some (0x0000#16 ++ s.crc) := by
  simp [readValue, exec, execRdCrc, completeRead_of_reset _ hs, Response.rdata, zext32_eq_append]

/-- A step that takes a reset off the pending list leaves the reset state of the registers (70_reset_and_hazards.md
R160). -/
theorem eq_applyReset_of_step_reset {s₀ : State} {es : List HostEvent} (hp : s.pending = .reset :: es)
    (h : step s = .next s₀) : s₀ = State.applyReset { s with pending := es } := by
  rw [step_event hp] at h
  exact (Host.Outcome.next.inj h).symm

/-- Settles O30: the INIT step copies SEED into CRC and a reset puts 0xFFFF there; from either state the list folds its
bytes into CRC. -/
theorem crcIsTheFoldSinceInit : Obligations.CrcIsTheFoldSinceInit := by
  refine ⟨fun s t ts rest hs ht hts => ?_, fun s s₀ es rest ts hp hstep hts => ?_⟩
  · obtain ⟨s₁, hstep, hseen, hcrc⟩ := step_facing_cons_effect t ts rest hs
    obtain ⟨s', hrun, hseen', hpend, hfold⟩ := run_facing_crc_of_no_start rest hseen hts
    refine ⟨s', (run_succ_of_next hstep).trans hrun, hpend, ?_, readValue_rdCrc hseen'⟩
    rw [hfold, hcrc, if_pos ht]
  · obtain rfl := eq_applyReset_of_step_reset hp hstep
    obtain ⟨s', hrun, hseen', hpend, hfold⟩ := run_facing_crc_of_no_start rest (State.applyReset_resetSeen _) hts
    exact ⟨s', hrun, hpend, hfold, readValue_rdCrc hseen'⟩

end Sys2Proof.Machine
end

section
/-!
PROOFS. Descriptors: their number as its fields (30_encoding.md R61), the ones that belong to a row of the opcode table
(R63), and the kinds and counts of the others (R64; 60_exceptions.md R141, R142).
-/

namespace Sys2Proof

/-! ### The fields of a descriptor as numbers -/

/-- R61's formula for a descriptor: its number, by the shifts of its fields. -/
theorem descOf_toNat (z : Size) (we : BitVec 1) (o : Offset) :
    (descOf z we o).toNat = (z.bits.toNat <<< 9) ||| (we.toNat <<< 8) ||| o.toNat := by
  simp only [descOf, BitVec.toNat_append, Nat.shiftLeft_or_distrib, ← Nat.shiftLeft_add]

theorem descSize_eq_ofBits_div (d : Descriptor) : descSize d = Size.ofBits (BitVec.ofNat 2 (d.toNat / 2 ^ 9)) := by
  rw [descSize, BitVec.extractLsb', Nat.shiftRight_eq_div_pow]

theorem descSize_eq_word_iff (d : Descriptor) : descSize d = .word ↔ d.toNat / 2 ^ 9 = 2 := by
  have hd := d.isLt
  have hword (b : BitVec 2) : Size.ofBits b = .word ↔ b = 0b10#2 := by revert b; decide
  rw [descSize_eq_ofBits_div, hword, ← BitVec.toNat_inj, BitVec.toNat_ofNat, BitVec.toNat_ofNat]
  omega

theorem descOff_toNat (d : Descriptor) : (descOff d).toNat = d.toNat % 2 ^ 8 := by
  rw [descOff, BitVec.extractLsb'_toNat, Nat.shiftRight_zero]

/-- The two low bits of a descriptor are zero exactly if its offset is a multiple of 4. -/
theorem extractLsb'_zero_two_eq_zero_iff (d : Descriptor) :
    d.extractLsb' 0 2 = 0#2 ↔ (descOff d).toNat % 4 = 0 := by
  rw [← BitVec.toNat_inj, BitVec.extractLsb'_toNat, Nat.shiftRight_zero, descOff_toNat, BitVec.toNat_ofNat]
  omega

/-! ### The descriptors that belong to a row -/

/-- The offsets of the nine registers (10_state.md R24): word-aligned, in 0x00 to 0x10 or 0x20 to 0x2C. -/
abbrev IsRegisterOffset (n : Nat) : Prop := n % 4 = 0 ∧ (n ≤ 0x10 ∨ 0x20 ≤ n ∧ n ≤ 0x2C)

/-- The row WR_HDR leaves bits [3:2] free and fixes the bits above and below them (30_encoding.md R63). -/
theorem and_wrHdr_mask_eq_iff (d : Descriptor) :
    d &&& 0x7F3#11 = 0x520#11 ↔ d.toNat / 2 ^ 4 = 0x52 ∧ d.toNat % 4 = 0 := by
  have hd := d.isLt
  have hdiv : (d.toNat &&& 0x7F3) / 2 ^ 4 = d.toNat / 2 ^ 4 % 2 ^ 7 :=
    Nat.and_div_two_pow.trans (Nat.and_two_pow_sub_one_eq_mod _ 7)
  have hmod : (d.toNat &&& 0x7F3) % 2 ^ 4 = d.toNat % 2 ^ 4 % 2 ^ 2 :=
    Nat.and_mod_two_pow.trans (Nat.and_two_pow_sub_one_eq_mod _ 2)
  have hnat : d &&& 0x7F3#11 = 0x520#11 ↔ d.toNat &&& 0x7F3 = 0x520 := by
    rw [← BitVec.toNat_inj, BitVec.toNat_and]; rfl
  rw [hnat]
  omega

/-- The tests of the decoder's chain are the rows of the table: WR_HDR's masked one, then the fourteen single values
(30_encoding.md R63). -/
theorem forall_row_not_matches_iff (d : Descriptor) :
    (∀ r ∈ opcodeTable, r.matches d = false) ↔
      ¬ d &&& 0x7F3#11 = 0x520#11 ∧
        ∀ v ∈ [0x400#11, 0x500#11, 0x404#11, 0x504#11, 0x408#11, 0x508#11, 0x40C#11, 0x50C#11, 0x410#11, 0x510#11,
          0x420#11, 0x424#11, 0x428#11, 0x42C#11], ¬ d = v := by
  have hmask : d &&& 0x7FF#11 = d := BitVec.and_allOnes
  simp only [opcodeTable, Row.matches, hmask, List.cons_append, List.nil_append, List.forall_mem_cons,
    List.not_mem_nil, false_imp_iff, implies_true, and_true, beq_eq_false_iff_ne, ne_eq]
  tauto

/-- The defined descriptors are the word accesses at a register's offset: R63's table by its fields. -/
theorem forall_row_not_matches_iff_fields (d : Descriptor) :
    (∀ r ∈ opcodeTable, r.matches d = false) ↔
      ¬ (descSize d = .word ∧ IsRegisterOffset (descOff d).toNat) := by
  have hd := d.isLt
  rw [forall_row_not_matches_iff, and_wrHdr_mask_eq_iff, descSize_eq_word_iff, descOff_toNat]
  simp only [List.forall_mem_cons, List.not_mem_nil, false_imp_iff, implies_true, and_true, ← BitVec.toNat_inj,
    BitVec.toNat_ofNat]
  omega

/-! ### What the decoder answers for the others -/

/-- One link of the decoder's chain: it answers a BusError exactly if the link's test fails and the rest answers it. -/
theorem ite_instr_eq_illegal_iff {c : Prop} [Decidable c] {i : Instr} {b : Decoded} {k : BusErrorKind} :
    (if c then .instr i else b) = Decoded.illegal k ↔ ¬ c ∧ b = .illegal k := by
  by_cases h : c <;> simp [h]

/-- The decoder rejects a descriptor exactly if no row matches it, and then by its kind (30_encoding.md R64). -/
theorem decodeDesc_eq_illegal_iff_no_row (d : Descriptor) (w : Word) (k : BusErrorKind) :
    decodeDesc d w = .illegal k ↔ (∀ r ∈ opcodeTable, r.matches d = false) ∧ illegalKind d = k := by
  simp only [decodeDesc, ite_instr_eq_illegal_iff, forall_row_not_matches_iff, List.forall_mem_cons, List.not_mem_nil,
    Decoded.illegal.injEq, and_assoc, false_imp_iff, implies_true, true_and]

/-- The kind of an illegal descriptor by its fields. -/
theorem illegalKind_eq_ite (d : Descriptor) :
    illegalKind d =
      if descSize d ≠ .word then .badSize else if (descOff d).toNat % 4 ≠ 0 then .misaligned else .unmapped := by
  simp only [illegalKind, ne_eq, extractLsb'_zero_two_eq_zero_iff]

theorem decodeDesc_eq_badSize_iff (d : Descriptor) (w : Word) :
    decodeDesc d w = .illegal .badSize ↔ descSize d ≠ .word := by
  rw [decodeDesc_eq_illegal_iff_no_row, forall_row_not_matches_iff_fields, illegalKind_eq_ite]
  by_cases hz : descSize d = .word
  · by_cases ha : (descOff d).toNat % 4 = 0 <;> simp [hz, ha]
  · simp [hz]

theorem decodeDesc_eq_misaligned_iff (d : Descriptor) (w : Word) :
    decodeDesc d w = .illegal .misaligned ↔ descSize d = .word ∧ (descOff d).toNat % 4 ≠ 0 := by
  rw [decodeDesc_eq_illegal_iff_no_row, forall_row_not_matches_iff_fields, illegalKind_eq_ite]
  by_cases hz : descSize d = .word
  · by_cases ha : (descOff d).toNat % 4 = 0 <;> simp [hz, ha]
  · simp [hz]

theorem decodeDesc_eq_unmapped_iff (d : Descriptor) (w : Word) :
    decodeDesc d w = .illegal .unmapped ↔
      descSize d = .word ∧ (descOff d).toNat % 4 = 0 ∧
        (0x14 ≤ (descOff d).toNat ∧ (descOff d).toNat ≤ 0x1C ∨
          0x30 ≤ (descOff d).toNat ∧ (descOff d).toNat ≤ 0xFC) := by
  have ho := (descOff d).isLt
  rw [decodeDesc_eq_illegal_iff_no_row, forall_row_not_matches_iff_fields, illegalKind_eq_ite]
  by_cases hz : descSize d = .word
  · by_cases ha : (descOff d).toNat % 4 = 0
    · simp only [hz, ha, ne_eq, not_true_eq_false, if_false, true_and, and_true]; omega
    · simp [hz, ha]
  · simp [hz]

/-- The decoder answers an operation exactly for a word access at a register's offset. -/
theorem decodeDesc_eq_instr_iff (d : Descriptor) (w : Word) :
    (∃ i, decodeDesc d w = .instr i) ↔ descSize d = .word ∧ IsRegisterOffset (descOff d).toNat := by
  have hill (k : BusErrorKind) := decodeDesc_eq_illegal_iff_no_row d w k
  simp only [forall_row_not_matches_iff_fields] at hill
  cases hd : decodeDesc d w with
  | instr i =>
    refine iff_of_true ⟨i, rfl⟩ (of_not_not fun hnot => ?_)
    exact nomatch hd.symm.trans ((hill _).mpr ⟨hnot, rfl⟩)
  | illegal k => exact iff_of_false (fun ⟨_, hi⟩ => nomatch hi) ((hill k).mp hd).1

/-- A transaction is illegal exactly as its descriptor is; its data word plays no part. -/
theorem decode_eq_illegal_iff (t : Txn) (k : BusErrorKind) :
    decode t = .illegal k ↔ decodeDesc t.desc 0#32 = .illegal k := by
  cases t with
  | read z o => rw [decode_read]
  | write z o w => rw [decode_write]; exact decodeDesc_eq_illegal_iff _ _ _ _

/-! ### Counting descriptors -/

/-- Of the numbers below `m * n`, those with their quotient by `n` in `p` and their remainder in `q` are counted by a
product. -/
theorem countP_range_mul (p q : Nat → Bool) (m n : Nat) :
    (List.range (m * n)).countP (fun d => p (d / n) && q (d % n)) =
      (List.range m).countP p * (List.range n).countP q := by
  induction m with
  | zero => simp
  | succ m ih =>
    have hblock : (List.range n).countP ((fun d => p (d / n) && q (d % n)) ∘ (m * n + ·)) =
        (List.range n).countP fun r => p m && q r := by
      refine List.countP_congr fun r hr => ?_
      have hr := List.mem_range.mp hr
      have hn : 0 < n := by omega
      rw [Function.comp_apply, Nat.mul_comm m n, Nat.mul_add_div hn, Nat.mul_add_mod,
        Nat.div_eq_of_lt hr, Nat.mod_eq_of_lt hr, Nat.add_zero]
    rw [Nat.succ_mul, List.range_add, List.countP_append, ih, List.countP_map, hblock, List.range_succ,
      List.countP_append, Nat.add_mul]
    cases hp : p m <;> simp [hp]

/-- A test that picks the decoder's answers by SIZE and OFF leaves WE free: of all 2048 descriptors it picks twice the
sizes times the offsets. -/
theorem countP_decodeDesc {c : Decoded → Bool} {p : Size → Bool} {q : Nat → Bool}
    (hc : ∀ d, c (decodeDesc d 0#32) = true ↔ p (descSize d) = true ∧ q (descOff d).toNat = true) :
    ((List.range 2048).map fun d => decodeDesc (BitVec.ofNat 11 d) 0#32).countP c =
      (List.range 4).countP (fun n => p (Size.ofBits (BitVec.ofNat 2 n))) * (2 * (List.range 256).countP q) := by
  have hwe := countP_range_mul (fun _ => true) q 2 256
  have hall := countP_range_mul (fun n => p (Size.ofBits (BitVec.ofNat 2 n))) (fun r => true && q (r % 256)) 4 (2 ^ 9)
  rw [List.countP_map]
  refine (List.countP_congr fun n hn => ?_).trans (hall.trans (congrArg _ hwe))
  have hn := List.mem_range.mp hn
  have hnat : (BitVec.ofNat 11 n).toNat = n := Nat.mod_eq_of_lt hn
  have hoff : n % 2 ^ 9 % 256 = n % 2 ^ 8 := by omega
  rw [Function.comp_apply, hc, descSize_eq_ofBits_div, descOff_toNat, hnat, Bool.true_and, hoff, Bool.and_eq_true]

end Sys2Proof

namespace Sys2Proof.Machine

/-- Past the first reset an illegal transaction only adds its ERROR to the responses (60_exceptions.md R140). -/
theorem step_illegal {s : State} {t : Txn} {es : List HostEvent} {k : BusErrorKind} (hs : s.resetSeen = true)
    (hp : s.pending = .transaction t :: es) (hd : decode t = .illegal k) :
    step s = .next (State.respond { s with pending := es } (if t.isRead then .readError k else .writeError k)) := by
  rw [step_event hp]
  simp only [performEvent, performTransaction, hd]
  exact (raiseBusError_eq_next_iff k t.isRead).mpr ⟨hs, rfl⟩

/-- An offset added to the base lies in the window and is read back. -/
theorem windowOffset_base_add (base : Nat) (off : Offset) : windowOffset base (base + off.toNat) = some off := by
  have ho := off.isLt
  simp only [windowOffset, Nat.add_sub_cancel_left, BitVec.ofNat_toNat, BitVec.setWidth_eq]
  exact if_pos ⟨by omega, by omega⟩

/-- Settles O4: a descriptor that no row matches is classified by its SIZE and OFF, which also count the classes. -/
theorem illegalDescriptorsAreClassified : Obligations.IllegalDescriptorsAreClassified := by
  refine ⟨fun t => ?_, fun t => ?_, fun t => ?_, fun t => ?_, ⟨?_, ?_, ?_, ?_⟩, fun s t es k hs hp hd => ?_⟩
  · simp only [decode_eq_illegal_iff, decodeDesc_eq_illegal_iff_no_row, exists_and_left, exists_eq', and_true]
  · rw [decode_eq_illegal_iff, decodeDesc_eq_badSize_iff, descSize_desc]
  · rw [decode_eq_illegal_iff, decodeDesc_eq_misaligned_iff, descSize_desc, descOff_desc]
  · rw [decode_eq_illegal_iff, decodeDesc_eq_unmapped_iff, descSize_desc, descOff_desc]
  · refine (countP_decodeDesc (p := (· ≠ .word)) (q := fun _ => true) fun d => ?_).trans (by decide +kernel)
    simp [decodeDesc_eq_badSize_iff]
  · refine (countP_decodeDesc (p := (· = .word)) (q := (· % 4 ≠ 0)) fun d => ?_).trans (by decide +kernel)
    simp [decodeDesc_eq_misaligned_iff]
  · refine (countP_decodeDesc (p := (· = .word))
      (q := fun n => n % 4 = 0 ∧ (0x14 ≤ n ∧ n ≤ 0x1C ∨ 0x30 ≤ n ∧ n ≤ 0xFC)) fun d => ?_).trans
      (by decide +kernel)
    simp [decodeDesc_eq_unmapped_iff]
  · refine (countP_decodeDesc (p := (· = .word)) (q := (IsRegisterOffset ·)) fun d => ?_).trans (by decide +kernel)
    simp only [decide_eq_true_eq, ← decodeDesc_eq_instr_iff d 0#32]
    cases decodeDesc d 0#32 <;> simp
  · refine ⟨_, step_illegal hs hp hd, ?_⟩
    cases t <;> rfl

/-- Settles O2: the fields' shifts, the codes by definition, and the window at BASE. -/
theorem descriptorFields : Obligations.DescriptorFields := by
  refine ⟨fun t => descOf_toNat _ _ _, ⟨rfl, rfl, rfl, rfl⟩, fun t => ?_, fun base z off w => ?_⟩
  · cases t <;> rfl
  · simp [memRead, memWrite, windowOffset_base_add]

end Sys2Proof.Machine
end

section
/-!
PROOFS. The update function of the CRC engine: each of its five steps as a move of bit fields (40_crc_engine.md R80).
-/

namespace Sys2Proof.Machine

/-- Shifting left in 32 bits and truncating to 16 is shifting in 16 bits: what leaves bit 15 never comes back. -/
theorem setWidth_shiftLeft_shiftLeft_setWidth (x : Half) (m n : Nat) :
    (x.setWidth 32 <<< m <<< n).setWidth 16 = x <<< m <<< n := by
  simp only [BitVec.setWidth_shiftLeft_of_le, BitVec.setWidth_setWidth_of_le, BitVec.setWidth_eq, Nat.reduceLeDiff]

/-- Step 2 of R80: the zero-extended byte reaches the low byte alone. -/
theorem append_xor_zext16 (hi lo b : Byte) : hi ++ lo ^^^ zext16 b = hi ++ (lo ^^^ b) := by
  have hb : zext16 b = 0#8 ++ b := BitVec.setWidth_eq_append (by decide)
  rw [hb, BitVec.xor_append, BitVec.xor_zero]

theorem toNat_and_0xFF (x : Half) : (x &&& 0xFF#16).toNat = x.toNat % 2 ^ 8 :=
  (BitVec.toNat_and ..).trans (Nat.and_two_pow_sub_one_eq_mod _ 8)

/-- Step 3 of R80: x[7:4] comes into bits [3:0]. -/
theorem and_0xFF_ushiftRight (x : Half) : (x &&& 0xFF#16) >>> 4 = 0#12 ++ x.extractLsb' 4 4 := by
  apply BitVec.eq_of_toNat_eq
  rw [BitVec.toNat_ushiftRight, toNat_and_0xFF]
  simp only [BitVec.toNat_append, BitVec.extractLsb'_toNat, BitVec.toNat_ofNat, Nat.shiftRight_eq_div_pow,
    Nat.zero_mod, Nat.zero_shiftLeft, Nat.zero_or]
  omega

/-- Step 4 of R80: x[3:0] comes into bits [15:12]. -/
theorem shiftLeft_shiftLeft_eq_append (x : Half) : x <<< 8 <<< 4 = x.extractLsb' 0 4 ++ 0#12 :=
  (BitVec.shiftLeft_add x 8 4).symm.trans (BitVec.shiftLeft_eq_concat_of_lt (by decide))

/-- Step 5 of R80: x[7:0] comes into bits [12:5]. -/
theorem and_0xFF_shiftLeft_shiftLeft (x : Half) :
    (x &&& 0xFF#16) <<< 4 <<< 1 = 0#3 ++ x.extractLsb' 0 8 ++ 0#5 := by
  apply BitVec.eq_of_toNat_eq
  rw [← BitVec.shiftLeft_add, BitVec.toNat_shiftLeft, toNat_and_0xFF]
  simp only [BitVec.toNat_append, BitVec.extractLsb'_toNat, BitVec.toNat_ofNat, Nat.shiftLeft_eq,
    Nat.shiftRight_zero, Nat.zero_mod, Nat.zero_mul, Nat.zero_or, Nat.or_zero]
  omega

/-- Settles O19: shifting in 16 bits loses what truncating loses, and each step moves the bit field that R80 names. -/
theorem crcStepIsTheFiveSteps : Obligations.CrcStepIsTheFiveSteps := by
  refine fun c b => ⟨?_, ?_⟩
  · simp only [setWidth_shiftLeft_shiftLeft_setWidth]
    rfl
  · simp only [crcStep, swap8, append_xor_zext16, and_0xFF_ushiftRight, shiftLeft_shiftLeft_eq_append,
      and_0xFF_shiftLeft_shiftLeft]

/-- A zero byte leaves the zero CRC as it is, however often it is fed (40_crc_engine.md R84, R86). -/
theorem crcFold_zero_replicate_zero (n : Nat) : crcFold 0x0000#16 (List.replicate n 0x00#8) = 0x0000#16 := by
  have hstep : crcStep 0x0000#16 0x00#8 = 0x0000#16 := by decide
  induction n with
  | zero => rfl
  | succ n ih => rw [List.replicate_succ, crcFold_cons, hstep, ih]

end Sys2Proof.Machine
end

section
/-!
PROOFS. The operations of the CRC engine, one by one (40_crc_engine.md R81 to R90): the descriptor decodes to the
operation, and past the first reset the operation completes with its one effect.
-/

namespace Sys2Proof.Machine

/-! ### Each operation as a completed read or write -/

theorem exec_rdCtrl (s : State) : exec .rdCtrl s = completeRead (fun _ => 0#32) s := rfl

theorem exec_wrCtrl (w : Word) (s : State) : exec (.wrCtrl w) s =
    completeWrite (fun s => { s with
      hdrck := if latchBit w then s.crc else s.hdrck
      crc := if initBit w then s.seed else s.crc }) s := rfl

theorem exec_rdSeed (s : State) : exec .rdSeed s = completeRead (fun s => zext32 s.seed) s := rfl

theorem exec_wrSeed (w : Word) (s : State) :
    exec (.wrSeed w) s = completeWrite (fun s => { s with seed := seedField w }) s := rfl

theorem exec_rdCrc (s : State) : exec .rdCrc s = completeRead (fun s => zext32 s.crc) s := rfl

theorem exec_wrCrc (w : Word) (s : State) : exec (.wrCrc w) s = completeWrite (fun s => s) s := rfl

theorem exec_rdData8 (s : State) : exec .rdData8 s = completeRead (fun _ => 0#32) s := rfl

theorem exec_wrData8 (w : Word) (s : State) :
    exec (.wrData8 w) s = completeWrite (fun s => { s with crc := crcStep s.crc (byteField w) }) s := rfl

theorem exec_rdData32 (s : State) : exec .rdData32 s = completeRead (fun _ => 0#32) s := rfl

/-! ### The statements -/

/-- Settles O13: a completed read of the constant 0. -/
theorem rdCtrlReadsZero : Obligations.RdCtrlReadsZero :=
  ⟨fun _ => rfl, fun s hs => (exec_rdCtrl s).trans (completeRead_of_reset _ hs)⟩

/-- Settles O14: the masks of wdata pick the bits LATCH and INIT, and one update of the state reads the old CRC and SEED
for both. -/
theorem wrCtrlLatchesThenInits : Obligations.WrCtrlLatchesThenInits := by
  refine ⟨fun _ => rfl, fun w s hs => ?_⟩
  simp only [← latchBit_iff_mask, ← initBit_iff_mask]
  exact (exec_wrCtrl w s).trans (completeWrite_of_reset _ hs)

/-- Settles O15: a completed read of SEED, zero-extended. -/
theorem rdSeedReadsSeed : Obligations.RdSeedReadsSeed := by
  refine ⟨fun _ => rfl, fun s hs => ?_⟩
  rw [exec_rdSeed, completeRead_of_reset _ hs, zext32_eq_append]
  rfl

/-- Settles O16: the field of SEED is the low half of wdata, and a zero CRC stays zero under zero bytes. -/
theorem wrSeedWritesSeedOnly : Obligations.WrSeedWritesSeedOnly := by
  refine ⟨fun _ => rfl, fun hi lo s hs => ?_, crcFold_zero_replicate_zero⟩
  rw [exec_wrSeed, completeWrite_of_reset _ hs, seedField_append]
  rfl

/-- Settles O17: a completed read of CRC, zero-extended. -/
theorem rdCrcReadsRunningCrc : Obligations.RdCrcReadsRunningCrc := by
  refine ⟨fun _ => rfl, fun s hs => ?_⟩
  rw [exec_rdCrc, completeRead_of_reset _ hs, zext32_eq_append]
  rfl

/-- Settles O18: a completed write whose effect leaves the state as it is. -/
theorem wrCrcIsIgnored : Obligations.WrCrcIsIgnored :=
  ⟨fun _ => rfl, fun w s hs => (exec_wrCrc w s).trans (completeWrite_of_reset _ hs)⟩

/-- Settles O20: the field of DATA8 is the low byte of wdata. -/
theorem wrData8FeedsOneByte : Obligations.WrData8FeedsOneByte := by
  refine ⟨fun _ => rfl, fun hi b s hs => ?_⟩
  rw [exec_wrData8, completeWrite_of_reset _ hs, byteField_append]
  rfl

/-- Settles O21: a completed read of the constant 0. -/
theorem rdData8ReadsZero : Obligations.RdData8ReadsZero :=
  ⟨fun _ => rfl, fun s hs => (exec_rdData8 s).trans (completeRead_of_reset _ hs)⟩

/-- Settles O23: a completed read of the constant 0. -/
theorem rdData32ReadsZero : Obligations.RdData32ReadsZero :=
  ⟨fun _ => rfl, fun s hs => (exec_rdData32 s).trans (completeRead_of_reset _ hs)⟩

end Sys2Proof.Machine
end

section
/-!
PROOFS. What a host reads back, and the steps that do not disturb it: the parameters stay over every step and HDRCK over
every transaction that does not latch (41_header_serializer.md R120, R122 to R125).
-/

namespace Sys2Proof.Machine

variable {s s' : State}

/-- The value a host reads back is the word the read computes. -/
theorem readValue_of_completeRead {i : Instr} {g : State → Word} (hi : exec i s = completeRead g s)
    (hs : s.resetSeen = true) : readValue i s = some (g s) := by
  simp [readValue, hi, completeRead_of_reset g hs, Response.rdata]

/-- The step that takes a transaction off the pending list performs it. -/
theorem step_transaction {t : Txn} {es : List HostEvent} (hp : s.pending = .transaction t :: es) :
    step s = performTransaction t { s with pending := es } := step_event hp

/-- No transaction, legal or not, completes before the first reset (70_reset_and_hazards.md R161). -/
theorem resetSeen_of_performTransaction {t : Txn} (h : performTransaction t s = .next s') : s.resetSeen = true := by
  unfold performTransaction at h
  split at h
  · exact (exec_next_cases h).1
  · exact ((raiseBusError_eq_next_iff _ _).mp h).1

/-- A transaction that completes leaves the block past its first reset and the parameters as they are, and HDRCK changes
only by LATCH. -/
theorem performTransaction_hdrck_params {t : Txn} (h : performTransaction t s = .next s') :
    s'.resetSeen = true ∧ s'.hdrck = (if latches t then s.crc else s.hdrck) ∧ s'.params = s.params := by
  obtain ⟨u, _, hu, _, _, hhdrck, hseen, hparams, _⟩ :=
    performTransaction_effect t s (resetSeen_of_performTransaction h)
  obtain rfl : u = s' := Host.Outcome.next.inj (hu.symm.trans h)
  exact ⟨hseen, hhdrck, hparams⟩

/-- No event changes the parameters (00_scope.md R6; 70_reset_and_hazards.md R162). -/
theorem performEvent_params {e : HostEvent} (h : performEvent e s = .next s') : s'.params = s.params := by
  cases e with
  | transaction t =>
    obtain ⟨_, _, hparams⟩ := performTransaction_hdrck_params h
    exact hparams
  | reset => cases h; exact State.applyReset_params s
  | powerUp => cases h; exact State.powerUp_params s

/-- No step changes the parameters. -/
theorem step_params (h : step s = .next s') : s'.params = s.params := by
  cases hp : s.pending with
  | nil => cases (step_idle hp).symm.trans h; rfl
  | cons e es =>
    exact performEvent_params (s := { s with pending := es }) ((step_event hp).symm.trans h)

end Sys2Proof.Machine
end

section
/-!
PROOFS. The operations of the header serializer, one by one (41_header_serializer.md R122 to R125, R127).
-/

namespace Sys2Proof.Machine

variable {s : State}

/-! ### Each operation as a completed read or write -/

theorem exec_rdHdr0 (s : State) : exec .rdHdr0 s = completeRead hdr0Word s := rfl

theorem exec_rdHdr1 (s : State) : exec .rdHdr1 s = completeRead hdr1Word s := rfl

theorem exec_rdHdr2 (s : State) : exec .rdHdr2 s = completeRead hdr2Word s := rfl

theorem exec_rdHdr3 (s : State) : exec .rdHdr3 s = completeRead hdr3Word s := rfl

theorem exec_wrHdr (n : Nat) (w : Word) (s : State) : exec (.wrHdr n w) s = completeWrite (fun s => s) s := rfl

/-- Past the first reset HDR3 reads as HDRCK above P_COMPANION_VERSION_2 (41_header_serializer.md R125). -/
theorem readValue_rdHdr3 (hs : s.resetSeen = true) :
    readValue .rdHdr3 s = some (s.hdrck ++ s.params.companionVersion2) :=
  readValue_of_completeRead (exec_rdHdr3 s) hs

/-! ### The statements -/

/-- Settles O25: a completed read of HDRCK, which a transaction without LATCH keeps and a reset sets to 0xFFFF; the
parameter below it never changes. -/
theorem rdHdr3ReadsLatchedChecksum : Obligations.RdHdr3ReadsLatchedChecksum := by
  refine ⟨fun _ => rfl, fun s hs => (exec_rdHdr3 s).trans (completeRead_of_reset _ hs),
    fun s s' t es hp ht h => ?_, fun s s' es hp h => ?_⟩
  · obtain ⟨hseen, hhdrck, hparams⟩ := performTransaction_hdrck_params ((step_transaction hp).symm.trans h)
    rw [readValue_rdHdr3 hseen, hhdrck, hparams, ht]
    rfl
  · obtain rfl := eq_applyReset_of_step_reset hp h
    exact readValue_rdHdr3 (State.applyReset_resetSeen _)

/-- Settles O24: three completed reads of parameters, which every step keeps. -/
theorem headerParameterReads : Obligations.HeaderParameterReads :=
  ⟨fun _ => ⟨rfl, rfl, rfl⟩,
    fun s hs => ⟨(exec_rdHdr0 s).trans (completeRead_of_reset _ hs),
      (exec_rdHdr1 s).trans (completeRead_of_reset _ hs),
      (exec_rdHdr2 s).trans (completeRead_of_reset _ hs)⟩,
    fun _ _ => step_params⟩

/-- WR_HDR n is encoded as 0x520 + 4n for the four values of its two-bit index (41_header_serializer.md R127). -/
theorem decode_wrHdr_desc {n : Nat} (w : Word) (hn : n < 4) :
    decode (Txn.ofDesc (0x520#11 + 4#11 * BitVec.ofNat 11 n) w) = .instr (.wrHdr n w) := by
  interval_cases n <;> rfl

/-- Settles O26: a completed write whose effect leaves the state as it is, whatever the index and the data word. -/
theorem wrHdrIsIgnored : Obligations.WrHdrIsIgnored :=
  ⟨fun _ w hn => decode_wrHdr_desc w hn, fun n w s hs => (exec_wrHdr n w s).trans (completeWrite_of_reset _ hs)⟩

end Sys2Proof.Machine
end

section
/-!
PROOFS. The header record as the byte lanes of the words HDR0 to HDR3 (41_header_serializer.md R121, R126; 20_memory.md
R41).
-/

namespace Sys2Proof.Machine

theorem lane_pack_of_lt {i : Nat} (hi lo : Half) (h : i < 2) : lane i (pack hi lo) = lo.extractLsb' (8 * i) 8 :=
  BitVec.extractLsb'_append_eq_of_add_le (by omega)

theorem lane_pack_of_le {i : Nat} (hi lo : Half) (h : 2 ≤ i) :
    lane i (pack hi lo) = hi.extractLsb' (8 * i - 16) 8 :=
  BitVec.extractLsb'_append_eq_of_le (by omega)

/-- The lanes of a word of two 16-bit fields are the bytes of the low field, then those of the high one. -/
theorem lanes_pack (hi lo : Half) : lanes (pack hi lo) = le16 lo ++ le16 hi := by
  simp only [lanes, lane_pack_of_lt, lane_pack_of_le, Nat.reduceLT, Nat.reduceLeDiff]
  rfl

/-- Byte k of a list of words is lane k mod 4 of word k div 4. -/
theorem flatMap_lanes_getElem? (ws : List Word) (k : Nat) :
    (ws.flatMap lanes)[k]? = ws[k / 4]?.map (lane (k % 4)) := by
  induction ws generalizing k with
  | nil => rfl
  | cons w ws ih =>
    rw [List.flatMap_cons, List.getElem?_append]
    split
    · next hk =>
      replace hk : k < 4 := hk
      interval_cases k <;> rfl
    · next hk =>
      obtain ⟨j, rfl⟩ := Nat.exists_eq_add_of_le' (Nat.le_of_not_lt hk : 4 ≤ k)
      rw [Nat.add_div_right j (by decide), Nat.add_mod_right, List.getElem?_cons_succ]
      exact ih j

/-- The words of HDR0 to HDR3, in the order of their offsets. -/
def headerWords (s : State) : List Word := [hdr0Word s, hdr1Word s, hdr2Word s, hdr3Word s]

/-- Past the first reset the four header reads return the header words. -/
theorem readValue_rdHdr_eq_headerWords {s : State} (hs : s.resetSeen = true) :
    [readValue .rdHdr0 s, readValue .rdHdr1 s, readValue .rdHdr2 s, readValue .rdHdr3 s] =
      (headerWords s).map some := by
  rw [readValue_of_completeRead (exec_rdHdr0 s) hs, readValue_of_completeRead (exec_rdHdr1 s) hs,
    readValue_of_completeRead (exec_rdHdr2 s) hs, readValue_of_completeRead (exec_rdHdr3 s) hs]
  rfl

/-- The record is the lanes of the header words, lane 0 first in each. -/
theorem recordBytes_eq_flatMap_lanes (s : State) :
    recordBytes s.params s.hdrck = (headerWords s).flatMap lanes := by
  simp only [headerWords, hdr0Word, hdr2Word, hdr3Word, List.flatMap_cons, List.flatMap_nil, lanes_pack]
  rfl

/-- Settles O27: the fields' bytes are the table's by definition, and the same bytes are the lanes of the four header
words, of which byte k picks lane k mod 4 of word k div 4. -/
theorem recordBytesAreTheHeaderLanes : Obligations.RecordBytesAreTheHeaderLanes := by
  refine ⟨rfl, fun s hs => ⟨rfl, fun k hk => ?_, rfl, fun _ => rfl⟩⟩
  have hw : k / 4 < (headerWords s).length := Nat.div_lt_of_lt_mul hk
  refine ⟨(headerWords s)[k / 4], ?_, ?_⟩
  · rw [readValue_rdHdr_eq_headerWords hs, List.getElem?_map, List.getElem?_eq_getElem hw]
    rfl
  · rw [recordBytes_eq_flatMap_lanes, flatMap_lanes_getElem?, List.getElem?_eq_getElem hw]
    rfl

end Sys2Proof.Machine
end

section
/-!
PROOFS. Reset and the time before it: what a reset leaves to be read, and the refusal of every transaction before the
first one (70_reset_and_hazards.md R160, R161).
-/

namespace Sys2Proof.Machine

variable {s : State}

/-! ### Reset -/

/-- A step that takes a reset off the pending list always completes, before the first reset too
(70_reset_and_hazards.md R162). -/
theorem step_reset {es : List HostEvent} (hp : s.pending = .reset :: es) :
    step s = .next (State.applyReset { s with pending := es }) := step_event hp

/-- Past the first reset RD SEED returns SEED, zero-extended (40_crc_engine.md R83). -/
theorem readValue_rdSeed (hs : s.resetSeen = true) : readValue .rdSeed s = some (0x0000#16 ++ s.seed) := by
  rw [readValue_of_completeRead (exec_rdSeed s) hs, zext32_eq_append]

/-- Settles O9: the reset step is `applyReset`, and each read of the table completes there with the word it computes from
the reset registers and the parameters kept. -/
theorem resetSetsTheRegisters : Obligations.ResetSetsTheRegisters := by
  refine ⟨fun s es hp => ⟨es, s.responses, step_reset hp⟩, fun s s' es hp h => ?_⟩
  obtain rfl := eq_applyReset_of_step_reset hp h
  have hseen := State.applyReset_resetSeen { s with pending := es }
  have hword : 0x0000FFFF#32 = 0x0000#16 ++ resetHalf := by decide
  rw [hword]
  exact ⟨readValue_of_completeRead (exec_rdCtrl _) hseen,
    readValue_rdSeed hseen,
    readValue_rdCrc hseen,
    readValue_of_completeRead (exec_rdData8 _) hseen,
    readValue_of_completeRead (exec_rdData32 _) hseen,
    readValue_of_completeRead (exec_rdHdr0 _) hseen,
    readValue_of_completeRead (exec_rdHdr1 _) hseen,
    readValue_of_completeRead (exec_rdHdr2 _) hseen,
    readValue_rdHdr3 hseen⟩

/-! ### Before the first reset -/

/-- Every operation stands behind the gate of 70_reset_and_hazards.md R161. -/
theorem exec_eq_accept (i : Instr) : ∃ f : State → State, ∀ s, exec i s = accept s f := by
  cases i <;> exact ⟨_, fun _ => rfl⟩

/-- Every transaction, legal or not, stands behind the gate of 70_reset_and_hazards.md R161. -/
theorem performTransaction_eq_accept (t : Txn) : ∃ f : State → State, ∀ s, performTransaction t s = accept s f := by
  unfold performTransaction
  cases decode t with
  | instr i => exact exec_eq_accept i
  | illegal k => exact ⟨_, fun _ => rfl⟩

/-- Settles O11: the step performs the transaction, whose gate is shut before the first reset. -/
theorem refusedBeforeFirstReset : Obligations.RefusedBeforeFirstReset := by
  intro s t es hs hp
  obtain ⟨f, hf⟩ := performTransaction_eq_accept t
  rw [step_transaction hp, hf]
  exact (accept_eq_refused_iff f _).mpr ⟨hs, rfl⟩

end Sys2Proof.Machine
end

section
/-!
PROOFS. The decoder and the encoder are inverse (30_encoding.md R60, R61, R63), the rows of the opcode table are
disjoint (R63), and the bus addresses of the window (20_memory.md R47).
-/

namespace Sys2Proof

/-! ### Decoding inverts encoding -/

/-- A property of every operation that an if-and-else chain can answer: it holds of the first answer under its test, and
of the answers of the rest. -/
theorem forall_ite_eq_instr {P : Instr → Prop} {c : Prop} [Decidable c] {j : Instr} {b : Decoded} (hj : c → P j)
    (hb : ∀ i, b = .instr i → P i) : ∀ i, (if c then .instr j else b) = Decoded.instr i → P i := by
  intro i h
  by_cases hc : c
  · rw [if_pos hc] at h
    exact Decoded.instr.inj h ▸ hj hc
  · rw [if_neg hc] at h
    exact hb i h

/-- The four descriptors of the row WR_HDR are 0x520 + 4n (30_encoding.md R63). -/
theorem eq_of_and_wrHdr_mask {d : Descriptor} (h : d &&& 0x7F3#11 = 0x520#11) :
    ∃ n < 4, d = 0x520#11 + 4#11 * BitVec.ofNat 11 n := by
  rw [and_wrHdr_mask_eq_iff] at h
  refine ⟨d.toNat % 16 / 4, by omega, BitVec.eq_of_toNat_eq ?_⟩
  simp only [BitVec.toNat_add, BitVec.toNat_mul, BitVec.toNat_ofNat]
  omega

/-- What the decoder's answer carries: a valid index, the descriptor it was read from, and the data word of a write. -/
theorem decodeDesc_eq_instr {d : Descriptor} {w : Word} :
    ∀ i, decodeDesc d w = .instr i →
      i.wf = true ∧ encodeDesc i = d ∧ i.wdata = if descWe d then w else 0#32 := by
  unfold decodeDesc
  refine forall_ite_eq_instr (fun h => ?_) ?_
  · obtain ⟨n, hn, rfl⟩ := eq_of_and_wrHdr_mask h
    interval_cases n <;> exact ⟨rfl, rfl, rfl⟩
  iterate 14
    refine forall_ite_eq_instr (by rintro rfl; exact ⟨rfl, rfl, rfl⟩) ?_
  exact fun i h => nomatch h

/-- Encoding gives back the transaction that decoded to an operation. -/
theorem encode_of_decode {t : Txn} {i : Instr} (h : decode t = .instr i) : i.wf = true ∧ encode i = t := by
  cases t with
  | read z o =>
    obtain ⟨hwf, hdesc, _⟩ := decodeDesc_eq_instr i h
    exact ⟨hwf, (congrArg (Txn.ofDesc · _) hdesc).trans (Txn.ofDesc_desc (.read z o) _ (.inl rfl))⟩
  | write z o w =>
    obtain ⟨hwf, hdesc, hw⟩ := decodeDesc_eq_instr i h
    have hwe : descWe (descOf z 1#1 o) = true := descWe_desc (.write z o w)
    rw [hwe, if_pos rfl] at hw
    rw [encode, hdesc, hw]
    exact ⟨hwf, Txn.ofDesc_desc (.write z o w) w (.inr rfl)⟩

/-- The WE bit of the transaction that a descriptor writes out is bit [8] (30_encoding.md R61). -/
theorem weBit_ofDesc (d : Descriptor) (w : Word) : (Txn.ofDesc d w).weBit = d.extractLsb' 8 1 := by
  have hbit : d.extractLsb' 8 1 = BitVec.ofBool (descWe d) := by
    ext i hi
    obtain rfl : i = 0 := by omega
    simp [descWe]
  rw [hbit, Txn.ofDesc]
  cases descWe d <;> rfl

/-- The fields of a descriptor, put together again, are the descriptor (30_encoding.md R61). -/
@[simp] theorem desc_ofDesc (d : Descriptor) (w : Word) : (Txn.ofDesc d w).desc = d := by
  have hsize : (Txn.ofDesc d w).size = descSize d := by unfold Txn.ofDesc; split <;> rfl
  have hoff : (Txn.ofDesc d w).off = descOff d := by unfold Txn.ofDesc; split <;> rfl
  rw [Txn.desc, descOf, weBit_ofDesc, hsize, hoff, descSize, Size.bits_ofBits, descOff,
    BitVec.extractLsb'_append_extractLsb'_eq_extractLsb' (start₂ := 9) (start₁ := 8) rfl,
    BitVec.extractLsb'_append_extractLsb'_eq_extractLsb' (start₂ := 8) (start₁ := 0) rfl]
  exact BitVec.extractLsb'_eq_self

/-- Decoding gives back a well-formed operation from its encoding. -/
theorem decode_encode {i : Instr} (hwf : i.wf = true) : decode (encode i) = .instr i := by
  cases i with
  | wrHdr n w => exact Machine.decode_wrHdr_desc w (of_decide_eq_true hwf)
  | rdCtrl | wrCtrl | rdSeed | wrSeed | rdCrc | wrCrc | rdData8 | wrData8 | rdData32 | wrData32 | rdHdr0 | rdHdr1
  | rdHdr2 | rdHdr3 =>
    simp only [encode, encodeDesc, Instr.wdata]
    rfl

/-- Settles O1: the chain of tests answers an operation only for its own descriptor, and each operation's descriptor
passes its own test first. -/
theorem decodeInvertsEncode : Obligations.DecodeInvertsEncode := by
  refine fun t i => ⟨encode_of_decode, ?_⟩
  rintro ⟨hwf, rfl⟩
  exact decode_encode hwf

/-! ### The rows of the table -/

/-- If no two members of a list pass a test together, at most one member passes it. -/
theorem length_filter_le_one_of_pairwise {α : Type} {p : α → Bool} {l : List α}
    (h : l.Pairwise fun a b => ¬ (p a = true ∧ p b = true)) : (l.filter p).length ≤ 1 := by
  have hf : (l.filter p).Pairwise _ := h.sublist List.filter_sublist
  have hp (a : α) (ha : a ∈ l.filter p) : p a = true := (List.mem_filter.mp ha).2
  match hl : l.filter p with
  | [] => exact Nat.zero_le 1
  | [_] => exact Nat.le_refl 1
  | a :: b :: _ =>
    rw [hl] at hf hp
    exact absurd ⟨hp a (by simp), hp b (by simp)⟩ (List.rel_of_pairwise_cons hf (by simp))

/-- A descriptor that two rows match makes their values agree on the bits that both masks keep. -/
theorem Row.value_and_mask_eq_of_matches {r r' : Row} {d : Descriptor} (h : r.matches d = true)
    (h' : r'.matches d = true) : r.value &&& r'.mask = r'.value &&& r.mask := by
  rw [← beq_iff_eq.mp h, ← beq_iff_eq.mp h', BitVec.and_assoc, BitVec.and_assoc, BitVec.and_comm r.mask]

/-- Any two rows of the table fix some bit to different values (30_encoding.md R63). -/
theorem opcodeTable_pairwise_value_ne :
    opcodeTable.Pairwise fun r r' => r.value &&& r'.mask ≠ r'.value &&& r.mask := by decide

theorem length_filter_matches_le_one (d : Descriptor) : (opcodeTable.filter fun r => r.matches d).length ≤ 1 :=
  length_filter_le_one_of_pairwise <| opcodeTable_pairwise_value_ne.imp fun hne ⟨h, h'⟩ =>
    hne (Row.value_and_mask_eq_of_matches h h')

/-- A transaction decodes to an operation exactly if a row of the table matches its descriptor. -/
theorem exists_decode_eq_instr_iff (t : Txn) :
    (∃ i, decode t = .instr i) ↔ ∃ r ∈ opcodeTable, r.matches t.desc = true := by
  have hrow : (∃ i, decode t = .instr i) ↔ ¬ ∀ r ∈ opcodeTable, r.matches t.desc = false := by
    rw [forall_row_not_matches_iff_fields, not_not]
    cases t with
    | read z o => exact decodeDesc_eq_instr_iff _ _
    | write z o w => exact decodeDesc_eq_instr_iff _ _
  rw [hrow]
  simp

/-- Settles O3: the eighteen descriptors compute, two rows of the table fix some bit differently, and the decoder's
chain tests exactly the rows. -/
theorem opcodeMapDecodes : Obligations.OpcodeMapDecodes := by
  refine ⟨fun w => ⟨rfl, rfl, rfl, rfl, rfl, rfl, rfl, rfl, rfl, rfl, rfl, rfl, rfl, rfl, rfl, rfl, rfl, rfl⟩,
    length_filter_matches_le_one, fun d w => ?_⟩
  rw [exists_decode_eq_instr_iff, desc_ofDesc]

end Sys2Proof

namespace Sys2Proof.Machine

/-! ### The window -/

/-- An address in another 256-byte block is outside the window (20_memory.md R47). -/
theorem windowOffset_of_div_ne {base addr : Nat} (hbase : base % 256 = 0) (h : addr / 256 ≠ base / 256) :
    windowOffset base addr = none :=
  if_neg (by omega)

/-- Settles O5: below a multiple of 256 the offset decides the alignment of the address, and the window is one whole
block. -/
theorem busAddressesOfTheWindow : Obligations.BusAddressesOfTheWindow := by
  intro base hwf
  have hbase : base % 256 = 0 := beq_iff_eq.mp hwf
  refine ⟨fun off t ht => ?_, fun addr z w h => ?_⟩
  · rw [memRead, windowOffset_base_add] at ht
    obtain rfl := Option.some.inj ht
    rw [decode_eq_illegal_iff, decodeDesc_eq_misaligned_iff, descSize_desc, descOff_desc, Txn.read_size, Txn.read_off,
      and_iff_right rfl]
    omega
  · simp [memRead, memWrite, windowOffset_of_div_ne hbase h]

end Sys2Proof.Machine
end

section
/-!
PROOFS. The laws of the update function (40_crc_engine.md R91, R94, R95). It is linear over XOR, so what holds of the
sixteen one-bit words holds of all; and each of its steps 3 to 5 XORs in a nilpotent linear map, so it loses nothing.
-/

namespace Sys2Proof.Machine

/-! ### Linear maps on words -/

/-- `f` is linear over XOR. -/
def XorLinear {v w : Nat} (f : BitVec v → BitVec w) : Prop := ∀ x y, f (x ^^^ y) = f x ^^^ f y

section Linear
variable {v w : Nat} {f g : BitVec v → BitVec w}

theorem XorLinear.map_zero (hf : XorLinear f) : f 0#v = 0#w := by
  have h := hf 0#v 0#v
  rwa [BitVec.xor_self, BitVec.xor_self] at h

theorem XorLinear.xor (hf : XorLinear f) (hg : XorLinear g) : XorLinear fun x => f x ^^^ g x := by
  intro x y
  simp only [hf x y, hg x y]
  ac_rfl

theorem XorLinear.comp {u : Nat} {g : BitVec u → BitVec v} (hf : XorLinear f) (hg : XorLinear g) :
    XorLinear fun x => f (g x) :=
  fun x y => (congrArg f (hg x y)).trans (hf _ _)

theorem XorLinear.iterate {f : BitVec w → BitVec w} (hf : XorLinear f) (n : Nat) : XorLinear f^[n] := by
  induction n with
  | zero => exact fun _ _ => rfl
  | succ n ih => exact ih.comp hf

/-- Keeping one more low bit of a word adds that bit's power of two, if the bit is set. -/
theorem setWidth_setWidth_succ (x : BitVec v) (n : Nat) :
    (x.setWidth (n + 1)).setWidth v =
      (x.setWidth n).setWidth v ^^^ if x.getLsbD n then BitVec.twoPow v n else 0#v := by
  ext i hi
  by_cases hin : i = n
  · subst hin
    cases hbit : x.getLsbD i <;> simp_all
  · have hlt : i < n + 1 ↔ i < n := by omega
    cases x.getLsbD n <;> simp [hlt, hin]

/-- A linear map that is zero on every one-bit word is zero. -/
theorem XorLinear.eq_zero_of_twoPow (hf : XorLinear f) (hbit : ∀ n < v, f (BitVec.twoPow v n) = 0#w) (x : BitVec v) :
    f x = 0#w := by
  have hlow : ∀ n ≤ v, f ((x.setWidth n).setWidth v) = 0#w := by
    intro n
    induction n with
    | zero =>
      intro _
      rw [BitVec.eq_nil (x.setWidth 0)]
      simpa using hf.map_zero
    | succ n ih =>
      intro hn
      rw [setWidth_setWidth_succ x n, hf, ih (by omega), BitVec.zero_xor]
      split
      · exact hbit n hn
      · exact hf.map_zero
  simpa using hlow v (Nat.le_refl v)

/-- Two linear maps that agree on every one-bit word agree. -/
theorem XorLinear.eq_of_twoPow (hf : XorLinear f) (hg : XorLinear g)
    (hbit : ∀ n < v, f (BitVec.twoPow v n) = g (BitVec.twoPow v n)) (x : BitVec v) : f x = g x :=
  BitVec.xor_eq_zero_iff.mp ((hf.xor hg).eq_zero_of_twoPow (fun n hn => BitVec.xor_eq_zero_iff.mpr (hbit n hn)) x)

/-- XORing in a linear map whose third iterate is zero is injective: what two preimages differ by is its own image. -/
theorem XorLinear.injective_xor_self {f : BitVec w → BitVec w} (hf : XorLinear f)
    (hnil : ∀ x, f (f (f x)) = 0#w) : Function.Injective fun x => x ^^^ f x := by
  intro x y h
  have hfix : x ^^^ y = f (x ^^^ y) := by
    rw [hf, ← BitVec.xor_eq_zero_iff]
    calc x ^^^ y ^^^ (f x ^^^ f y) = (x ^^^ f x) ^^^ (y ^^^ f y) := by ac_rfl
      _ = 0#w := BitVec.xor_eq_zero_iff.mpr h
  apply BitVec.xor_eq_zero_iff.mp
  rw [hfix, hfix, hfix]
  exact hnil _

end Linear

/-! ### The steps of `crc_step` -/

/-- What step 3 of R80 XORs in. -/
def step3Field (x : Half) : Half := (x &&& 0xFF#16) >>> 4

/-- What step 4 of R80 XORs in. -/
def step4Field (x : Half) : Half := x <<< 8 <<< 4

/-- What step 5 of R80 XORs in. -/
def step5Field (x : Half) : Half := (x &&& 0xFF#16) <<< 4 <<< 1

/-- Steps 3 to 5 of R80. -/
def steps3to5 (t : Half) : Half :=
  let t3 := t ^^^ step3Field t
  let t4 := t3 ^^^ step4Field t3
  t4 ^^^ step5Field t4

theorem crcStep_eq_steps3to5 (c : Half) (b : Byte) : crcStep c b = steps3to5 (swap8 c ^^^ zext16 b) := rfl

theorem and_linear (m : Half) : XorLinear fun x : Half => x &&& m := by
  intro x y
  ext i hi
  simp [Bool.and_xor_distrib_right]

theorem step3Field_linear : XorLinear step3Field :=
  XorLinear.comp (f := (· >>> 4)) (fun x y => BitVec.ushiftRight_xor_distrib x y 4) (and_linear 0xFF#16)

theorem shiftLeft_linear {w : Nat} (n : Nat) : XorLinear fun x : BitVec w => x <<< n :=
  fun x y => BitVec.shiftLeft_xor_distrib x y n

theorem step4Field_linear : XorLinear step4Field := (shiftLeft_linear 4).comp (shiftLeft_linear 8)

theorem step5Field_linear : XorLinear step5Field :=
  ((shiftLeft_linear 1).comp (shiftLeft_linear 4)).comp (and_linear 0xFF#16)

theorem id_linear {w : Nat} : XorLinear fun x : BitVec w => x := fun _ _ => rfl

theorem steps3to5_linear : XorLinear steps3to5 :=
  (id_linear.xor step5Field_linear).comp <| (id_linear.xor step4Field_linear).comp <| id_linear.xor step3Field_linear

theorem swap8_linear : XorLinear swap8 := by
  intro x y
  simp only [swap8, BitVec.extractLsb'_xor]
  exact BitVec.xor_append.symm

theorem zext16_linear : XorLinear zext16 := fun _ _ => BitVec.setWidth_xor

/-- `crc_step` is linear over XOR in the state and the byte together (40_crc_engine.md R95). -/
theorem crcStep_xor (c d : Half) (a b : Byte) : crcStep (c ^^^ d) (a ^^^ b) = crcStep c a ^^^ crcStep d b := by
  simp only [crcStep_eq_steps3to5, ← steps3to5_linear _ _, swap8_linear c d, zext16_linear a b]
  ac_rfl

theorem crcStep_zero_byte_linear : XorLinear (crcStep · 0x00#8) := fun c d => crcStep_xor c d 0x00#8 0x00#8

/-- Steps 3 to 5 lose nothing: the field each of them XORs in vanishes when it is taken three times. -/
theorem steps3to5_injective : Function.Injective steps3to5 :=
  (step5Field_linear.injective_xor_self (step5Field_linear.iterate 3 |>.eq_zero_of_twoPow (by decide))).comp <|
    (step4Field_linear.injective_xor_self (step4Field_linear.iterate 3 |>.eq_zero_of_twoPow (by decide))).comp <|
    step3Field_linear.injective_xor_self (step3Field_linear.iterate 3 |>.eq_zero_of_twoPow (by decide))

theorem swap8_swap8 (c : Half) : swap8 (swap8 c) = c :=
  (swap8_linear.comp swap8_linear).eq_of_twoPow id_linear (by decide) c

theorem crcStep_injective (b : Byte) : Function.Injective fun c : Half => crcStep c b := by
  intro c d h
  have hsteps : steps3to5 (swap8 c ^^^ zext16 b) = steps3to5 (swap8 d ^^^ zext16 b) := h
  have hswap : swap8 c = swap8 d := (BitVec.xor_left_inj _).mp (steps3to5_injective hsteps)
  rw [← swap8_swap8 c, hswap, swap8_swap8]

/-- Settles O36: each step of R80 is linear, and a linear map XORed into its argument is injective where its third
iterate is zero. -/
theorem crcStepIsLinearAndBijective : Obligations.CrcStepIsLinearAndBijective := by
  refine ⟨fun c b => ?_, crcStep_zero_byte_linear, fun b => Finite.injective_iff_bijective.mp (crcStep_injective b)⟩
  rw [← crcStep_xor, BitVec.xor_zero, BitVec.zero_xor]

/-! ### The polynomial form -/

theorem polyShift_eq_xor (c : Half) :
    polyShift c = c <<< 1 ^^^ if c.getLsbD 15 then 0x1021#16 else 0x0000#16 := by
  unfold polyShift
  split <;> simp

theorem polyShift_linear : XorLinear polyShift := by
  intro c d
  have hpoly : (if (c ^^^ d).getLsbD 15 then 0x1021#16 else 0x0000#16) =
      (if c.getLsbD 15 then 0x1021#16 else 0x0000#16) ^^^ if d.getLsbD 15 then 0x1021#16 else 0x0000#16 := by
    rw [BitVec.getLsbD_xor]
    cases c.getLsbD 15 <;> cases d.getLsbD 15 <;> rfl
  simp only [polyShift_eq_xor, hpoly, BitVec.shiftLeft_xor_distrib]
  ac_rfl

theorem bitwise1021_eq_iterate (c : Half) (b : Byte) : bitwise1021 c b = polyShift^[8] (c ^^^ zext16 b <<< 8) := rfl

/-- The byte XORed into the high half of the state is, after the swap of step 1, in the low half (40_crc_engine.md R80,
R94). -/
theorem swap8_zext16_shiftLeft (b : Byte) : swap8 (zext16 b <<< 8) = zext16 b :=
  (swap8_linear.comp ((shiftLeft_linear 8).comp zext16_linear)).eq_of_twoPow zext16_linear (by decide) b

/-- Settles O35: both forms are one linear map of the state with the byte in its high half, and agree on the sixteen
one-bit states. -/
theorem crcStepIsPolynomial1021 : Obligations.CrcStepIsPolynomial1021 := by
  intro c b
  rw [crcStep_eq_steps3to5, ← swap8_zext16_shiftLeft b, ← swap8_linear, bitwise1021_eq_iterate]
  exact (steps3to5_linear.comp swap8_linear).eq_of_twoPow (polyShift_linear.iterate 8) (by decide) _

/-! ### Fixed points -/

theorem zero_append_linear : XorLinear fun lo : Byte => 0x00#8 ++ lo := by
  intro x y
  rw [BitVec.xor_append, BitVec.xor_self]

theorem append_zero_linear : XorLinear fun lo : Byte => lo ++ 0x00#8 := by
  intro x y
  rw [BitVec.xor_append, BitVec.xor_self]

/-- Feeding a zero byte moves the low byte of the state up; the rest comes from its high byte. -/
theorem crcStep_append_zero_byte (hi lo : Byte) :
    crcStep (hi ++ lo) 0x00#8 = crcStep (hi ++ 0x00#8) 0x00#8 ^^^ (lo ++ 0x00#8) := by
  have hlow : crcStep (0x00#8 ++ lo) 0x00#8 = lo ++ 0x00#8 :=
    (crcStep_zero_byte_linear.comp zero_append_linear).eq_of_twoPow append_zero_linear (by decide) lo
  have hsplit : hi ++ lo = (hi ++ 0x00#8) ^^^ (0x00#8 ++ lo) := by
    rw [BitVec.xor_append, BitVec.xor_zero, BitVec.zero_xor]
  rw [hsplit, ← hlow]
  exact crcStep_zero_byte_linear _ _

/-- The high byte of a fixed point fits the two bytes that it is mapped to, and only two do. -/
theorem fixed_point_of_high_byte (hi : Byte)
    (h : (crcStep (hi ++ 0x00#8) 0x00#8).extractLsb' 8 8 ^^^ (crcStep (hi ++ 0x00#8) 0x00#8).extractLsb' 0 8 = hi) :
    hi ++ (crcStep (hi ++ 0x00#8) 0x00#8).extractLsb' 0 8 = 0x0000#16 ∨
      hi ++ (crcStep (hi ++ 0x00#8) 0x00#8).extractLsb' 0 8 = 0xF01F#16 := by
  revert hi
  decide +kernel

/-- Settles O37: the high byte of a fixed point gives its low byte, so 256 high bytes are all there is to try. -/
theorem zeroByteFixedPoints : Obligations.ZeroByteFixedPoints := by
  intro c
  refine ⟨fun h => ?_, ?_⟩
  · obtain ⟨hi, lo, rfl⟩ : ∃ hi lo : Byte, c = hi ++ lo :=
      ⟨c.extractLsb' 8 8, c.extractLsb' 0 8, by
        rw [BitVec.extractLsb'_append_extractLsb'_eq_extractLsb' (start₂ := 8) (start₁ := 0) rfl]
        exact BitVec.extractLsb'_eq_self.symm⟩
    have himage : crcStep (hi ++ 0x00#8) 0x00#8 = (hi ^^^ lo) ++ lo := by
      calc _ = crcStep (hi ++ lo) 0x00#8 ^^^ (lo ++ 0x00#8) := by
            rw [crcStep_append_zero_byte hi lo, BitVec.xor_assoc, BitVec.xor_self, BitVec.xor_zero]
        _ = (hi ^^^ lo) ++ lo := by rw [h, BitVec.xor_append, BitVec.xor_zero]
    have hlo : (crcStep (hi ++ 0x00#8) 0x00#8).extractLsb' 0 8 = lo := by
      rw [himage, BitVec.extractLsb'_append_eq_right]
    have hhi : (crcStep (hi ++ 0x00#8) 0x00#8).extractLsb' 8 8 = hi ^^^ lo := by
      rw [himage, BitVec.extractLsb'_append_eq_left]
    have hfix := fixed_point_of_high_byte hi (by rw [hlo, hhi, BitVec.xor_assoc, BitVec.xor_self, BitVec.xor_zero])
    rwa [hlo] at hfix
  · rintro (rfl | rfl) <;> decide

/-! ### Truncation -/

theorem ofNat_shiftLeft (w x n : Nat) : BitVec.ofNat w (x <<< n) = BitVec.ofNat w x <<< n := by
  apply BitVec.eq_of_toNat_eq
  simp [Nat.shiftLeft_eq]

theorem ofNat_and_0xFF_shiftRight (x : Nat) :
    BitVec.ofNat 16 ((x &&& 0xFF) >>> 4) = (BitVec.ofNat 16 x &&& 0xFF#16) >>> 4 := by
  apply BitVec.eq_of_toNat_eq
  have hx : x &&& 0xFF = x % 2 ^ 8 := Nat.and_two_pow_sub_one_eq_mod x 8
  rw [BitVec.toNat_ushiftRight, toNat_and_0xFF, BitVec.toNat_ofNat, BitVec.toNat_ofNat, hx]
  simp only [Nat.shiftRight_eq_div_pow]
  omega

theorem ofNat_swap8 (c : Half) : BitVec.ofNat 16 (((c.toNat &&& 0xFF) <<< 8) ||| (c.toNat >>> 8)) = swap8 c := by
  have hc := c.isLt
  have hlo : c.toNat &&& 0xFF = c.toNat % 2 ^ 8 := Nat.and_two_pow_sub_one_eq_mod _ 8
  have hhi : c.toNat >>> 8 % 2 ^ 8 = c.toNat >>> 8 := by
    rw [Nat.shiftRight_eq_div_pow]
    omega
  have hswap : (swap8 c).toNat = ((c.toNat &&& 0xFF) <<< 8) ||| (c.toNat >>> 8) := by
    rw [swap8, BitVec.toNat_append, BitVec.extractLsb'_toNat, BitVec.extractLsb'_toNat, hhi, hlo, Nat.shiftRight_zero]
  rw [← hswap, BitVec.ofNat_toNat, BitVec.setWidth_eq]

/-- Truncating the five steps at their end gives `crc_step`. -/
theorem ofNat_crcStepUntruncated (c : Half) (b : Byte) :
    BitVec.ofNat 16 (crcStepUntruncated c.toNat b.toNat) = crcStep c b := by
  have hb : BitVec.ofNat 16 b.toNat = zext16 b := BitVec.ofNat_toNat ..
  simp only [crcStepUntruncated, crcStep, BitVec.ofNat_xor, ofNat_shiftLeft, BitVec.ofNat_and,
    ofNat_and_0xFF_shiftRight, ofNat_swap8, hb]

theorem step_fields_le (t : Nat) : (t &&& 0xFF) >>> 4 ≤ 0x000F ∧ ((t &&& 0xFF) <<< 4) <<< 1 ≤ 0x1FE0 := by
  have ht : t &&& 0xFF ≤ 0xFF := Nat.and_le_right
  simp only [Nat.shiftRight_eq_div_pow, Nat.shiftLeft_eq]
  omega

/-- Settles O34: truncation commutes with XOR, with AND and with a left shift; and feeding 0x11 and 0x00 to 0x0000
brings bits from above bit 15 back. -/
theorem truncatingOncePerByteSuffices : Obligations.TruncatingOncePerByteSuffices := by
  refine ⟨step_fields_le, fun c b => ?_, 0x0000#16, 0x11#8, 0x00#8, by decide⟩
  rw [← ofNat_crcStepUntruncated, BitVec.toNat_ofNat]

end Sys2Proof.Machine
end

section
/-!
PROOFS. Every operation as one completed read or write: what it answers, what it may change, and what a read returns
straight after it (10_state.md R20; 60_exceptions.md R143; 70_reset_and_hazards.md R164).
-/

namespace Sys2Proof.Machine

variable {s s' : State}

/-! ### Completion -/

/-- `s` with `rs` as the responses given so far. -/
def State.withResponses (s : State) (rs : List Response) : State := { s with responses := rs }

/-- A function of the state that does not see the responses given. -/
def IgnoresResponses {α : Type} (g : State → α) : Prop :=
  ∀ (s : State) (rs : List Response), g (s.withResponses rs) = g s

/-- An effect that leaves the responses given as they are and does not see them. -/
def KeepsResponses (f : State → State) : Prop :=
  ∀ (s : State) (rs : List Response), f (s.withResponses rs) = (f s).withResponses rs

theorem KeepsResponses.responses_eq {f : State → State} (hf : KeepsResponses f) (s : State) :
    (f s).responses = s.responses := by
  have h := congrArg State.responses (hf s s.responses)
  exact h

theorem exec_wrData32 (w : Word) (s : State) :
    exec (.wrData32 w) s = completeWrite (fun s => { s with crc := crcFold s.crc (lanes w) }) s := rfl

/-- The direction of an operation's transaction is the WE bit of its descriptor (30_encoding.md R61). -/
theorem encode_isRead (i : Instr) : (encode i).isRead = !descWe (encodeDesc i) := by
  have h := descWe_desc (encode i)
  rw [encode, desc_ofDesc] at h
  rw [h, Bool.not_not, encode]

theorem encode_wrHdr_isRead {n : Nat} (w : Word) (hwf : (Instr.wrHdr n w).wf = true) :
    (encode (.wrHdr n w)).isRead = false := by
  have hn : n < 4 := of_decide_eq_true hwf
  rw [encode_isRead, encodeDesc]
  interval_cases n <;> rfl

/-- Every operation is a completed read or a completed write, as the direction of its transaction says. -/
theorem exec_eq_completeRead_or_completeWrite (i : Instr) :
    (∃ g, (∀ s, exec i s = completeRead g s) ∧ IgnoresResponses g ∧ (i.wf = true → (encode i).isRead = true)) ∨
      ∃ f, (∀ s, exec i s = completeWrite f s) ∧ KeepsResponses f ∧ (i.wf = true → (encode i).isRead = false) := by
  cases i with
  | wrHdr n w => exact .inr ⟨_, exec_wrHdr n w, fun _ _ => rfl, encode_wrHdr_isRead w⟩
  | wrCtrl | wrSeed | wrCrc | wrData8 | wrData32 =>
    exact .inr ⟨_, fun _ => rfl, fun _ _ => rfl, fun _ => (encode_isRead _).trans (by rw [encodeDesc]; rfl)⟩
  | rdCtrl | rdSeed | rdCrc | rdData8 | rdData32 | rdHdr0 | rdHdr1 | rdHdr2 | rdHdr3 =>
    exact .inl ⟨_, fun _ => rfl, fun _ _ => rfl, fun _ => rfl⟩

/-- Settles O41: past the first reset a read answers its word and a write only OKAY. -/
theorem everyOperationCompletesOkay : Obligations.EveryOperationCompletesOkay := by
  intro i s hs
  obtain ⟨g, hg, _, hread⟩ | ⟨f, hf, hkeeps, hwrite⟩ := exec_eq_completeRead_or_completeWrite i
  · exact ⟨_, .readOkay (g s), (hg s).trans (completeRead_of_reset g hs), rfl, rfl, fun hwf => (hread hwf).symm⟩
  · exact ⟨_, .writeOkay, (hf s).trans (completeWrite_of_reset f hs), congrArg (· ++ _) (hkeeps.responses_eq s), rfl,
      fun hwf => (hwrite hwf).symm⟩

/-! ### Frame -/

/-- Settles O38: the inversion of `exec` names the registers that each kind of operation writes. -/
theorem frameOfEveryOperation : Obligations.FrameOfEveryOperation := by
  intro i s s' h
  simp only [← initBit_iff_mask, ← latchBit_iff_mask]
  obtain ⟨_, ⟨v, rfl⟩ | rfl | ⟨w, rfl, rfl⟩ | ⟨w, rfl, rfl⟩ | ⟨w, rfl, rfl⟩ | ⟨w, rfl, rfl⟩⟩ := exec_next_cases h
  all_goals refine ⟨rfl, rfl, rfl, rfl, ⟨_, rfl⟩, ?_⟩
  -- a read; an ignored write; CTRL; SEED; DATA8; DATA32
  · simp
  · simp
  · cases hinit : initBit w <;> cases hlatch : latchBit w <;> simp [hinit, hlatch]
  · simp
  · simp
  · simp

/-! ### Reading straight after a write -/

/-- Settles O45: each write's next state holds the value, and the read of its register returns it. -/
theorem readAfterWriteSeesTheWrite : Obligations.ReadAfterWriteSeesTheWrite := by
  intro s s' w
  simp only [exec_wrData32, exec_wrData8, exec_wrSeed, exec_wrCtrl, completeWrite_eq_next_iff]
  refine ⟨?_, ?_, ?_, ?_, ?_⟩
  · rintro ⟨hs, rfl⟩
    exact readValue_rdCrc hs
  · rintro ⟨hs, rfl⟩
    exact readValue_rdCrc hs
  · rintro ⟨hs, rfl⟩
    exact readValue_rdSeed hs
  · rintro ⟨hs, rfl⟩ hinit
    simp only [hinit, if_true]
    exact readValue_rdCrc hs
  · rintro ⟨hs, rfl⟩ hlatch
    simp only [hlatch, if_true]
    exact readValue_rdHdr3 hs

/-- Settles O46: each of the three reads shows one register whole. -/
theorem readsObserveTheWholeState : Obligations.ReadsObserveTheWholeState := by
  intro s t hs ht hcrc hseed hhdr3
  rw [readValue_rdCrc hs, readValue_rdCrc ht] at hcrc
  rw [readValue_rdSeed hs, readValue_rdSeed ht] at hseed
  rw [readValue_rdHdr3 hs, readValue_rdHdr3 ht] at hhdr3
  refine ⟨(BitVec.append_right_inj _).mp (Option.some.inj hcrc),
    (BitVec.append_right_inj _).mp (Option.some.inj hseed), ?_⟩
  have hlane := congrArg (BitVec.extractLsb' 16 16) (Option.some.inj hhdr3)
  rwa [BitVec.extractLsb'_append_eq_left, BitVec.extractLsb'_append_eq_left] at hlane

/-- Settles O10: the reset state's registers, and its header words computed from the default parameters. -/
theorem resetStateReadsAsSpecified : Obligations.ResetStateReadsAsSpecified :=
  ⟨rfl, rfl, rfl, readValue_of_completeRead (exec_rdHdr0 _) rfl, readValue_of_completeRead (exec_rdHdr1 _) rfl,
    readValue_of_completeRead (exec_rdHdr2 _) rfl, readValue_of_completeRead (exec_rdHdr3 _) rfl⟩

end Sys2Proof.Machine
end

section
/-!
PROOFS. What each step may change (10_state.md R20, R23), the steps that change nothing of the block (20_memory.md R46;
60_exceptions.md R140, R145), and that no step depends on the responses given.
-/

namespace Sys2Proof.Machine

variable {s s' : State}

/-! ### One step -/

/-- A transaction that decodes to an operation is performed as that operation. -/
theorem performTransaction_instr {t : Txn} {i : Instr} (h : decode t = .instr i) (s : State) :
    performTransaction t s = exec i s := by
  rw [performTransaction, h]

/-- Settles O6: the step performs the transaction, which performs the operation. -/
theorem stepRunsDecodedTransaction : Obligations.StepRunsDecodedTransaction :=
  fun _ _ _ _ hp hd => (step_transaction hp).trans (performTransaction_instr hd _)

/-- Settles O7: the idle step. -/
theorem idleStepChangesNothing : Obligations.IdleStepChangesNothing := fun _ => step_idle

/-- Settles O12: the power-up step, whose free values are the registers' values. -/
theorem powerUpNeedsAReset : Obligations.PowerUpNeedsAReset :=
  fun _ _ hp => ⟨_, _, _, _, step_event hp⟩

/-! ### The event that changed a register -/

/-- A step that changes something which issuing events does not touch has performed a reset, a power-up or a
transaction. -/
theorem event_of_step_changes {α : Type} {f : State → α} (hf : ∀ (s : State) es, f { s with pending := es } = f s)
    {q : Txn → Prop} (hq : ∀ t s s', performTransaction t s = .next s' → f s' ≠ f s → q t)
    (h : step s = .next s') (hne : f s' ≠ f s) :
    ∃ e es, s.pending = e :: es ∧ (e = .reset ∨ e = .powerUp ∨ ∃ t, e = .transaction t ∧ q t) := by
  cases hp : s.pending with
  | nil =>
    obtain rfl := Host.Outcome.next.inj ((step_idle hp).symm.trans h)
    exact absurd rfl hne
  | cons e es =>
    refine ⟨e, es, rfl, ?_⟩
    cases e with
    | reset => exact .inl rfl
    | powerUp => exact .inr (.inl rfl)
    | transaction t =>
      refine .inr (.inr ⟨t, rfl, hq t _ s' ((step_transaction hp).symm.trans h) ?_⟩)
      rwa [hf s es]

theorem seedAfter_of_not_writesSeed {t : Txn} (h : writesSeed t = false) (d : Half) : seedAfter t d = d := by
  unfold writesSeed at h
  unfold seedAfter
  split
  · next hd => simp [hd] at h
  · rfl

/-- What a completed transaction leaves in the three registers. -/
theorem performTransaction_registers {t : Txn} (h : performTransaction t s = .next s') :
    s'.crc = (if startsComputation t then s.seed else crcFold s.crc (fedBytes t)) ∧ s'.seed = seedAfter t s.seed ∧
      s'.hdrck = if latches t then s.crc else s.hdrck := by
  obtain ⟨u, _, hu, hcrc, hseed, hhdrck, _⟩ := performTransaction_effect t s (resetSeen_of_performTransaction h)
  obtain rfl : u = s' := Host.Outcome.next.inj (hu.symm.trans h)
  exact ⟨hcrc, hseed, hhdrck⟩

/-- Settles O39: a transaction leaves HDRCK unless it latches, SEED unless it is a SEED write, and CRC unless it
starts a computation or feeds bytes. -/
theorem onlyTheNamedEventsWriteARegister : Obligations.OnlyTheNamedEventsWriteARegister := by
  refine fun s s' h => ⟨event_of_step_changes (fun _ _ => rfl) (fun t s s' hperf => ?_) h,
    event_of_step_changes (fun _ _ => rfl) (fun t s s' hperf => ?_) h,
    event_of_step_changes (fun _ _ => rfl) (fun t s s' hperf => ?_) h⟩
  · obtain ⟨_, _, hhdrck⟩ := performTransaction_registers hperf
    contrapose!
    intro hlatch
    rw [hhdrck, if_neg hlatch]
  · obtain ⟨_, hseed, _⟩ := performTransaction_registers hperf
    contrapose!
    intro hwrite
    rw [hseed, seedAfter_of_not_writesSeed (Bool.eq_false_iff.mpr hwrite)]
  · obtain ⟨hcrc, _, _⟩ := performTransaction_registers hperf
    contrapose!
    rintro ⟨hstart, hfed⟩
    rw [hcrc, if_neg hstart, hfed, crcFold_nil]

/-! ### Steps without effect -/

/-- An operation whose transaction is a read completes as a read. -/
theorem exec_eq_completeRead_of_isRead {t : Txn} {i : Instr} (hd : decode t = .instr i) (hr : t.isRead = true) :
    ∃ g, ∀ s, exec i s = completeRead g s := by
  obtain ⟨hwf, rfl⟩ := encode_of_decode hd
  obtain ⟨g, hg, _⟩ | ⟨_, _, _, hwrite⟩ := exec_eq_completeRead_or_completeWrite i
  · exact ⟨g, hg⟩
  · exact nomatch hr.symm.trans (hwrite hwf)

/-- A CTRL write with zeros in both action bits leaves the registers (10_state.md R25). -/
theorem exec_wrCtrl_of_no_action {w : Word} (hw : w.extractLsb' 0 2 = 0#2) (hs : s.resetSeen = true) :
    exec (.wrCtrl w) s = .next (s.respond .writeOkay) := by
  have hinit : initBit w = false := by simpa [initBit] using congrArg (BitVec.getLsbD · 0) hw
  have hlatch : latchBit w = false := by simpa [latchBit] using congrArg (BitVec.getLsbD · 1) hw
  rw [exec_wrCtrl, completeWrite_of_reset _ hs, hinit, hlatch]
  rfl

/-- Past the first reset the transactions without effect only add their response (20_memory.md R46). -/
theorem performTransaction_no_effect {t : Txn} (hs : s.resetSeen = true)
    (ht : t.isRead = true ∨ (∃ k, decode t = .illegal k) ∨ (∃ w, decode t = .instr (.wrCrc w)) ∨
      (∃ n w, decode t = .instr (.wrHdr n w)) ∨ ∃ w, decode t = .instr (.wrCtrl w) ∧ w.extractLsb' 0 2 = 0#2) :
    ∃ r, performTransaction t s = .next (s.respond r) := by
  have hill (k : BusErrorKind) (hd : decode t = .illegal k) : ∃ r, performTransaction t s = .next (s.respond r) := by
    rw [performTransaction, hd]
    exact ⟨_, (raiseBusError_eq_next_iff k t.isRead).mpr ⟨hs, rfl⟩⟩
  obtain hr | ⟨k, hd⟩ | ⟨w, hd⟩ | ⟨n, w, hd⟩ | ⟨w, hd, hw⟩ := ht
  · cases hd : decode t with
    | illegal k => exact hill k hd
    | instr i =>
      obtain ⟨g, hg⟩ := exec_eq_completeRead_of_isRead hd hr
      rw [performTransaction_instr hd, hg]
      exact ⟨_, completeRead_of_reset g hs⟩
  · exact hill k hd
  · rw [performTransaction_instr hd, exec_wrCrc]
    exact ⟨_, completeWrite_of_reset _ hs⟩
  · rw [performTransaction_instr hd, exec_wrHdr]
    exact ⟨_, completeWrite_of_reset _ hs⟩
  · rw [performTransaction_instr hd]
    exact ⟨_, exec_wrCtrl_of_no_action hw hs⟩

/-- Settles O40: each of the transactions named only adds its response; a SEED write sets SEED to a value of its own. -/
theorem noSideEffects : Obligations.NoSideEffects := by
  refine ⟨fun s t es hs hp ht => ?_, fun s a b w ha hb => ?_⟩
  · rw [step_transaction hp]
    exact performTransaction_no_effect (s := { s with pending := es }) hs ht
  · rw [exec_wrSeed, completeWrite_eq_next_iff] at ha hb
    obtain ⟨_, rfl⟩ := ha
    obtain ⟨_, rfl⟩ := hb
    exact ⟨rfl, rfl, rfl⟩

/-! ### Independence of the responses given -/

/-- Every transaction is gated, has an effect on the registers and then answers; neither looks at earlier responses. -/
theorem performTransaction_eq_accept_respond (t : Txn) :
    ∃ (f : State → State) (r : State → Response), KeepsResponses f ∧ IgnoresResponses r ∧
      ∀ s, performTransaction t s = accept s fun s => (f s).respond (r s) := by
  unfold performTransaction
  cases decode t with
  | illegal k => exact ⟨id, fun _ => _, fun _ _ => rfl, fun _ _ => rfl, fun _ => rfl⟩
  | instr i =>
    obtain ⟨g, hg, hignores, _⟩ | ⟨f, hf, hkeeps, _⟩ := exec_eq_completeRead_or_completeWrite i
    · exact ⟨id, fun s => .readOkay (g s), fun _ _ => rfl, fun s rs => congrArg _ (hignores s rs), hg⟩
    · exact ⟨f, fun _ => .writeOkay, hkeeps, fun _ _ => rfl, hf⟩

/-- A transaction adds the same response to whatever responses were given before it. -/
theorem performTransaction_with_responses {t : Txn} (h : performTransaction t s = .next s') :
    ∃ r, ∀ rs : List Response,
      performTransaction t (s.withResponses rs) = .next (s'.withResponses (rs ++ [r])) := by
  obtain ⟨f, r, hf, hr, hperf⟩ := performTransaction_eq_accept_respond t
  rw [hperf, accept_eq_next_iff] at h
  obtain ⟨hs, rfl⟩ := h
  refine ⟨r s, fun rs => ?_⟩
  rw [hperf, accept_eq_next_iff, hf s rs, hr s rs]
  exact ⟨hs, rfl⟩

/-- A step adds the same responses to whatever responses were given before it. -/
theorem step_with_responses (h : step s = .next s') :
    ∃ new : List Response, ∀ rs : List Response,
      step (s.withResponses rs) = .next (s'.withResponses (rs ++ new)) := by
  cases hp : s.pending with
  | nil =>
    obtain rfl := Host.Outcome.next.inj ((step_idle hp).symm.trans h)
    refine ⟨[], fun rs => ?_⟩
    rw [List.append_nil]
    exact step_idle hp
  | cons e es =>
    have hstep (rs : List Response) :
        step (s.withResponses rs) = performEvent e (State.withResponses { s with pending := es } rs) := step_event hp
    rw [step_event hp] at h
    simp only [hstep]
    cases e with
    | transaction t =>
      obtain ⟨r, hr⟩ := performTransaction_with_responses h
      exact ⟨[r], hr⟩
    | reset | powerUp =>
      obtain rfl := Host.Outcome.next.inj h
      refine ⟨[], fun rs => ?_⟩
      rw [List.append_nil]
      rfl

/-- Settles O8: no row matches, so the decoder rejects the transaction and the step only adds its ERROR; and what a step
adds does not depend on the responses before it. -/
theorem busErrorHasNoEffect : Obligations.BusErrorHasNoEffect := by
  refine ⟨fun s t es hs hp hrow => ?_, fun s s' h => ?_⟩
  · have hd : decode t = .illegal (illegalKind t.desc) :=
      (decode_eq_illegal_iff t _).mpr ((decodeDesc_eq_illegal_iff_no_row _ _ _).mpr ⟨hrow, rfl⟩)
    refine ⟨_, step_illegal hs hp hd, ?_⟩
    cases t <;> exact ⟨rfl, rfl⟩
  · obtain ⟨new, hnew⟩ := step_with_responses h
    exact ⟨new, congrArg State.responses (Host.Outcome.next.inj (h.symm.trans (hnew s.responses))), hnew⟩

end Sys2Proof.Machine
end

section
/-!
PROOFS. Past the first reset with no power-up pending the block never stops, and each step answers the transaction it
takes (60_exceptions.md section 1; 70_reset_and_hazards.md R163).
-/

namespace Sys2Proof.Machine

variable {s s' : State}

/-- Is an event a transaction? -/
def HostEvent.isTransaction : HostEvent → Bool
  | .transaction _ => true
  | .reset         => false
  | .powerUp       => false

/-- A step of a ready block takes the oldest event, answers it if it is a transaction, and leaves the block ready. -/
theorem step_of_ready {e : HostEvent} {es : List HostEvent} (h : Ready s) (hp : s.pending = e :: es) :
    ∃ (s' : State) (rs : List Response), step s = .next s' ∧ Ready s' ∧ s'.pending = es ∧
      s'.responses = s.responses ++ rs ∧ rs.length = [e].countP HostEvent.isTransaction := by
  obtain ⟨hs, hpower⟩ := h
  rw [hp, List.mem_cons, not_or] at hpower
  obtain ⟨he, hes⟩ := hpower
  rw [step_event hp]
  cases e with
  | powerUp => exact absurd rfl he
  | reset => exact ⟨_, [], rfl, ⟨rfl, hes⟩, rfl, (List.append_nil _).symm, rfl⟩
  | transaction t =>
    obtain ⟨s', r, hperf, _, _, _, hseen, _, hpend, _, hresp⟩ :=
      performTransaction_effect t { s with pending := es } hs
    exact ⟨s', [r], hperf, ⟨hseen, hpend ▸ hes⟩, hpend, hresp, rfl⟩

/-- A ready block takes a step, and is ready after it. -/
theorem exists_step_of_ready (h : Ready s) : ∃ s', step s = .next s' ∧ Ready s' := by
  cases hp : s.pending with
  | nil => exact ⟨s, step_idle hp, h⟩
  | cons e es =>
    obtain ⟨s', _, hstep, hready, _⟩ := step_of_ready h hp
    exact ⟨s', hstep, hready⟩

/-- Settles O44: nothing is pending at reset. -/
theorem resetIsReady : Obligations.ResetIsReady :=
  ⟨⟨rfl, List.not_mem_nil⟩, rfl, fun _ => ⟨⟨rfl, List.not_mem_nil⟩, rfl⟩⟩

/-- Settles O43: the step of a ready block, and no step changes the parameters. -/
theorem stepKeepsReadyAndParameters : Obligations.StepKeepsReadyAndParameters := by
  rintro p s s' ⟨hready, hp⟩ h
  obtain ⟨u, hstep, hready'⟩ := exists_step_of_ready hready
  obtain rfl := Host.Outcome.next.inj (hstep.symm.trans h)
  exact ⟨hready', (step_params h).trans hp⟩

theorem exists_run_of_ready (n : Nat) (h : Ready s) : ∃ s', run n s = .next s' := by
  induction n generalizing s with
  | zero => exact ⟨s, run_zero s⟩
  | succ n ih =>
    obtain ⟨u, hstep, hready⟩ := exists_step_of_ready h
    rw [run_succ_of_next hstep]
    exact ih hready

/-- As many steps as events are pending perform them all, and give as many responses as there are transactions. -/
theorem run_pending_of_ready {es : List HostEvent} (h : Ready s) (hp : s.pending = es) :
    ∃ (s' : State) (rs : List Response), run es.length s = .next s' ∧ s'.pending = [] ∧
      s'.responses = s.responses ++ rs ∧ rs.length = es.countP HostEvent.isTransaction := by
  induction es generalizing s with
  | nil => exact ⟨s, [], run_zero s, hp, (List.append_nil _).symm, rfl⟩
  | cons e es ih =>
    obtain ⟨u, rs, hstep, hready, hpend, hresp, hlen⟩ := step_of_ready h hp
    obtain ⟨s', rs', hrun, hpend', hresp', hlen'⟩ := ih hready hpend
    refine ⟨s', rs ++ rs', (run_succ_of_next hstep).trans hrun, hpend', ?_, ?_⟩
    · rw [hresp', hresp, List.append_assoc]
    · rw [List.length_append, hlen, hlen', ← List.countP_append, List.singleton_append]

/-- Settles O42: the two inductions, over the number of steps and over the pending events. -/
theorem everyPendingTransactionIsAnswered : Obligations.EveryPendingTransactionIsAnswered :=
  fun _ h => ⟨fun n => exists_run_of_ready n h, run_pending_of_ready h rfl⟩

end Sys2Proof.Machine
end

section
/-!
PROOFS. Programs: the assembler's writes and pseudo-instructions as steps with their whole next state (30_encoding.md
R66, R67), and the contracts of the engine and of the serializer (40_crc_engine.md R88, R92, R93;
41_header_serializer.md R128, R129).
-/

namespace Sys2Proof.Machine

variable {s : State}

/-! ### Steps of a block that faces a list of transactions -/

/-- The first transaction faced, if it decodes to an operation, is performed as that operation. -/
theorem step_facing_instr {t : Txn} {i : Instr} (hd : decode t = .instr i) (s : State) (ts : List Txn)
    (rest : List HostEvent) : step (s.facing (t :: ts) rest) = exec i (s.facing ts rest) :=
  (step_facing_cons s t ts rest).trans (performTransaction_instr hd _)

/-- Facing one transaction more is facing the list with that one behind it. -/
theorem State.facing_concat (s : State) (ts : List Txn) (t : Txn) :
    s.facing (ts ++ [t]) [] = s.facing ts [.transaction t] := by
  simp only [State.facing, List.map_append, List.append_nil, List.map_cons, List.map_nil]

/-- `s` after an OKAY SEED write of `v`. -/
def State.seeded (s : State) (v : Half) : State := State.respond { s with seed := v } .writeOkay

/-- `s` after an OKAY CTRL write of `w`. -/
def State.controlled (s : State) (w : Word) : State :=
  State.respond { s with
    hdrck := if latchBit w then s.crc else s.hdrck
    crc := if initBit w then s.seed else s.crc } .writeOkay

/-- `s` after an OKAY write that feeds `bs`. -/
def State.fed (s : State) (bs : List Byte) : State := State.respond { s with crc := crcFold s.crc bs } .writeOkay

/-- Only DATA8 and DATA32 writes feed bytes (40_crc_engine.md R86, R88). -/
theorem decode_of_fedBytes_ne_nil {t : Txn} (ht : fedBytes t ≠ []) :
    (∃ w, decode t = .instr (.wrData8 w) ∧ fedBytes t = [byteField w]) ∨
      ∃ w, decode t = .instr (.wrData32 w) ∧ fedBytes t = lanes w := by
  unfold fedBytes at ht ⊢
  split at ht
  · next w hd => exact .inl ⟨w, hd, rfl⟩
  · next w hd => exact .inr ⟨w, hd, rfl⟩
  · exact absurd rfl ht

/-- A run, by its first step and the run after it. -/
theorem run_of_step {n : Nat} {t u : State} (h : step s = .next t) (h' : run n t = .next u) :
    run (n + 1) s = .next u := (run_succ_of_next h).trans h'

section Steps
variable {ts : List Txn} {rest : List HostEvent} (hs : s.resetSeen = true)
include hs

theorem step_facing_setSeed {v : Half} :
    step (s.facing (wrReg .seed (zext32 v) :: ts) rest) = .next ((s.seeded v).facing ts rest) := by
  have hd : decode (wrReg .seed (zext32 v)) = .instr (.wrSeed (zext32 v)) := rfl
  have hv : seedField (zext32 v) = v := by rw [zext32_eq_append, seedField_append]
  rw [step_facing_instr hd, exec_wrSeed, hv]
  exact completeWrite_of_reset _ hs

theorem step_facing_wrCtrl {w : Word} :
    step (s.facing (wrReg .ctrl w :: ts) rest) = .next ((s.controlled w).facing ts rest) := by
  have hd : decode (wrReg .ctrl w) = .instr (.wrCtrl w) := rfl
  rw [step_facing_instr hd, exec_wrCtrl]
  exact completeWrite_of_reset _ hs

theorem step_facing_rdReg {r : RegName} {i : Instr} {g : State → Word} {w : Word}
    (hd : decode (rdReg r) = .instr i) (hi : ∀ s, exec i s = completeRead g s) (hw : g (s.facing ts rest) = w) :
    step (s.facing (rdReg r :: ts) rest) = .next ((s.respond (.readOkay w)).facing ts rest) := by
  rw [step_facing_instr hd, hi, ← hw]
  exact completeRead_of_reset g hs

/-- A transaction that feeds bytes is OKAY and folds them into CRC. -/
theorem step_facing_feed {t : Txn} (ht : fedBytes t ≠ []) :
    step (s.facing (t :: ts) rest) = .next ((s.fed (fedBytes t)).facing ts rest) := by
  obtain ⟨w, hd, hfed⟩ | ⟨w, hd, hfed⟩ := decode_of_fedBytes_ne_nil ht
  · rw [step_facing_instr hd, exec_wrData8, hfed]
    exact completeWrite_of_reset _ hs
  · rw [step_facing_instr hd, exec_wrData32, hfed]
    exact completeWrite_of_reset _ hs

/-- START is a SEED write and an INIT (30_encoding.md R67): CRC and SEED hold the seed. -/
theorem run_facing_start (n : Nat) (v : Half) :
    run (n + 2) (s.facing (wrReg .seed (zext32 v) :: wrReg .ctrl 0x1#32 :: ts) rest) =
      run n (((s.seeded v).controlled 0x1#32).facing ts rest) :=
  (run_succ_of_next (step_facing_setSeed hs)).trans (run_succ_of_next (step_facing_wrCtrl (s := s.seeded v) hs))

end Steps

/-- A list of transactions that each feed something folds all their bytes into CRC and keeps SEED and HDRCK. -/
theorem run_facing_feeds {ts : List Txn} (rest : List HostEvent) (hs : s.resetSeen = true)
    (hts : ∀ u ∈ ts, fedBytes u ≠ []) :
    ∃ a : State, run ts.length (s.facing ts rest) = .next a ∧ a.resetSeen = true ∧ a.pending = rest ∧
      a.crc = crcFold s.crc (ts.flatMap fedBytes) ∧ a.seed = s.seed ∧ a.hdrck = s.hdrck := by
  induction ts generalizing s with
  | nil => exact ⟨s.facing [] rest, run_zero _, hs, rfl, rfl, rfl, rfl⟩
  | cons t ts ih =>
    obtain ⟨ht, hts⟩ := List.forall_mem_cons.mp hts
    obtain ⟨a, hrun, hseen, hpend, hcrc, hseed, hhdrck⟩ := ih (s := s.fed (fedBytes t)) hs hts
    refine ⟨a, (run_succ_of_next (step_facing_feed hs ht)).trans hrun, hseen, hpend, ?_, hseed, hhdrck⟩
    rw [hcrc, List.flatMap_cons, crcFold_append]
    rfl

/-! ### The bytes that the assembler's writes feed -/

theorem fedBytes_feedTxn (b : Byte) : fedBytes (feedTxn b) = [b] := by
  have hd : decode (feedTxn b) = .instr (.wrData8 (b.setWidth 32)) := rfl
  have hb : b.setWidth 32 = 0#24 ++ b := BitVec.setWidth_eq_append (by decide)
  rw [fedBytes, hd]
  simp only [hb, byteField_append]

theorem fedBytes_data32 (b0 b1 b2 b3 : Byte) : fedBytes (wrReg .data32 (ofLanes b0 b1 b2 b3)) = [b0, b1, b2, b3] :=
  lanes_ofLanes b0 b1 b2 b3

theorem flatMap_fedBytes_map_feedTxn (bs : List Byte) : (bs.map feedTxn).flatMap fedBytes = bs := by
  rw [List.flatMap_map]
  simp only [fedBytes_feedTxn]
  exact List.flatMap_singleton' bs

/-- Settles O22: the lanes of the word are its four bytes, and one DATA32 write and four DATA8 writes feed the same
bytes and change nothing else. -/
theorem wrData32FeedsFourBytes : Obligations.WrData32FeedsFourBytes := by
  refine ⟨fun _ => rfl, fun b0 b1 b2 b3 s hs => ?_, fun b0 b1 b2 b3 s hs => ?_⟩
  · have hlanes : lanes (b3 ++ b2 ++ b1 ++ b0) = [b0, b1, b2, b3] := lanes_ofLanes b0 b1 b2 b3
    rw [exec_wrData32, completeWrite_of_reset _ hs, hlanes]
    rfl
  · have hword : fedBytes (wrReg .data32 (b3 ++ b2 ++ b1 ++ b0)) = [b0, b1, b2, b3] := fedBytes_data32 b0 b1 b2 b3
    obtain ⟨a, hrun, _, _, hcrc, hseed, hhdrck⟩ := run_facing_feeds (ts := [wrReg .data32 (b3 ++ b2 ++ b1 ++ b0)]) [] hs
      (by simp [hword])
    obtain ⟨d, hrun', _, _, hcrc', hseed', hhdrck'⟩ := run_facing_feeds (ts := [b0, b1, b2, b3].map feedTxn) [] hs
      (by simp [fedBytes_feedTxn])
    refine ⟨a, d, hrun, hrun', ?_, hseed.trans hseed'.symm, hhdrck.trans hhdrck'.symm⟩
    rw [hcrc, hcrc', flatMap_fedBytes_map_feedTxn, List.flatMap_singleton, hword]

/-! ### Computations -/

/-- After a list without an INIT, RD CRC answers the fold of the bytes fed (40_crc_engine.md R85). -/
theorem run_facing_then_rdCrc (ts : List Txn) (hs : s.resetSeen = true) (hts : ∀ u ∈ ts, startsComputation u = false) :
    ∃ s' : State, run (ts.length + 1) (s.facing (ts ++ [rdReg .crc]) []) = .next s' ∧
      s'.responses.getLast? = some (.readOkay (0x0000#16 ++ crcFold s.crc (ts.flatMap fedBytes))) := by
  obtain ⟨a, hrun, hseen, hpend, hcrc⟩ := run_facing_crc_of_no_start [.transaction (rdReg .crc)] hs hts
  have hstep := step_facing_rdReg (ts := []) (rest := []) (r := .crc) (w := zext32 a.crc) hseen rfl exec_rdCrc rfl
  rw [State.facing_eq_self hpend] at hstep
  rw [State.facing_concat]
  refine ⟨_, (run_add_of_next hrun).trans (run_of_step hstep (run_zero _)), ?_⟩
  rw [State.facing_responses, State.respond_responses, List.getLast?_concat, zext32_eq_append, hcrc]

/-- Settles O31: after START, or after a reset, the list of transactions folds its bytes from the seed and RD CRC
answers the result. -/
theorem computationContract : Obligations.ComputationContract := by
  refine ⟨fun s v ts hs hts => ?_, fun s s₀ es ts hp hstep hts => ?_, fedBytes_feedTxn, fedBytes_data32, fun _ => rfl⟩
  · rw [← zext32_eq_append, run_facing_start hs (ts.length + 1) v]
    exact run_facing_then_rdCrc ts hs hts
  · obtain rfl := eq_applyReset_of_step_reset hp hstep
    exact run_facing_then_rdCrc ts (State.applyReset_resetSeen _) hts

/-- Settles O32: both lists fold the same bytes into the same CRC. -/
theorem crcDependsOnTheBytesAlone : Obligations.CrcDependsOnTheBytesAlone := by
  intro s ts us hs hts hus hbytes
  obtain ⟨a, hrun, _, _, hcrc⟩ := run_facing_crc_of_no_start [] hs hts
  obtain ⟨b, hrun', _, _, hcrc'⟩ := run_facing_crc_of_no_start [] hs hus
  exact ⟨a, b, hrun, hrun', by rw [hcrc, hcrc', hbytes]⟩

/-! ### The record -/

/-- GETHDR answers the four header words and changes no register (30_encoding.md R67). -/
theorem run_facing_getHdr (hs : s.resetSeen = true) :
    run 4 (s.facing (expandPseudo .getHdr) []) =
      .next { s with pending := [], responses := s.responses ++ (headerWords s).map .readOkay } := by
  have hrun : run 4 (s.facing (expandPseudo .getHdr) []) =
      .next (State.facing ((headerWords s).foldl (fun u w => u.respond (.readOkay w)) s) [] []) :=
    run_of_step (step_facing_rdReg (w := hdr0Word s) hs rfl exec_rdHdr0 rfl) <|
    run_of_step (step_facing_rdReg (s := s.respond _) (w := hdr1Word s) hs rfl exec_rdHdr1 rfl) <|
    run_of_step (step_facing_rdReg (s := (s.respond _).respond _) (w := hdr2Word s) hs rfl exec_rdHdr2 rfl) <|
    run_of_step (step_facing_rdReg (s := ((s.respond _).respond _).respond _) (w := hdr3Word s) hs rfl exec_rdHdr3 rfl)
      (run_zero _)
  rw [hrun]
  simp [headerWords, State.facing, State.respond]

/-- The bytes of the header words, read in order, are the record (41_header_serializer.md R126). -/
theorem responseBytes_headerWords (s : State) :
    responseBytes ((headerWords s).map .readOkay) = recordBytes s.params s.hdrck := by
  rw [responseBytes, List.flatMap_map, recordBytes_eq_flatMap_lanes]
  rfl

/-- Settles O28: GETHDR answers the header words, whose bytes are the record; at reset it is computed from the default
parameters. -/
theorem recordAfterReset : Obligations.RecordAfterReset := by
  refine ⟨rfl, ⟨_, run_facing_getHdr State.reset_resetSeen, ?_⟩, fun s hs =>
    ⟨hdr0Word s, hdr1Word s, hdr2Word s, hdr3Word s, run_facing_getHdr hs, responseBytes_headerWords s⟩⟩
  exact (responseBytes_headerWords State.reset).trans (by decide)

/-- `s` after SETSEED v, INIT and LATCH: HDRCK holds v. -/
def State.latched (s : State) (v : Half) : State := ((s.seeded v).controlled 0x1#32).controlled 0x2#32

/-- Settles O29: SETSEED, INIT and LATCH leave v in HDRCK before GETHDR answers the record; LATCH and INIT in one write
latch the CRC from before. -/
theorem buildHeaderContract : Obligations.BuildHeaderContract := by
  intro s v hs
  have hgetHdr := run_facing_getHdr (s := s.latched v) hs
  have hlatch := run_of_step (step_facing_wrCtrl (s := (s.seeded v).controlled 0x1#32) hs) hgetHdr
  refine ⟨⟨_, (headerWords (s.latched v)).map .readOkay, (run_facing_start hs 5 v).trans hlatch, ?_,
    responseBytes_headerWords (s.latched v)⟩, ?_⟩
  · simp [State.latched, State.controlled, State.seeded]
  · exact ⟨_, run_of_step (step_facing_setSeed hs) <|
      run_of_step (step_facing_wrCtrl (s := s.seeded v) hs) (run_zero _), rfl, rfl⟩

/-! ### Pseudo-instructions -/

/-- START, any transactions that each feed something, and LATCH compute the CRC of the bytes and latch it
(30_encoding.md R67). -/
theorem run_facing_start_feeds_latch {ts : List Txn} (hs : s.resetSeen = true) (v : Half)
    (hts : ∀ u ∈ ts, fedBytes u ≠ []) :
    ∃ a : State, run (ts.length + 3) (s.facing (expandStart (some v) ++ ts ++ [wrReg .ctrl 0x2#32]) []) = .next a ∧
      a.crc = crcFold v (ts.flatMap fedBytes) ∧ a.seed = v ∧ a.hdrck = crcFold v (ts.flatMap fedBytes) := by
  obtain ⟨a, hrun, hseen, hpend, hcrc, hseed, _⟩ := run_facing_feeds (s := (s.seeded v).controlled 0x1#32)
    [.transaction (wrReg .ctrl 0x2#32)] hs hts
  have hlatch := step_facing_wrCtrl (ts := []) (rest := []) (w := 0x2#32) hseen
  rw [State.facing_eq_self hpend] at hlatch
  have hlist : expandStart (some v) ++ ts ++ [wrReg .ctrl 0x2#32] =
      wrReg .seed (zext32 v) :: wrReg .ctrl 0x1#32 :: (ts ++ [wrReg .ctrl 0x2#32]) := rfl
  rw [hlist, run_facing_start hs (ts.length + 1) v, State.facing_concat]
  exact ⟨_, (run_add_of_next hrun).trans (run_of_step hlatch (run_zero _)), hcrc, hseed, hcrc⟩

/-- Settles O33: the pseudo-instructions of one write by its step, START by its two steps, and CRC16 as START, feeds and
LATCH. -/
theorem pseudoInstructionEffects : Obligations.PseudoInstructionEffects := by
  intro s hs
  have hctrl (w : Word) : run 1 (s.facing [wrReg .ctrl w] []) = .next ((s.controlled w).facing [] []) :=
    run_of_step (step_facing_wrCtrl hs) (run_zero _)
  have hfeed (t : Txn) (bs : List Byte) (ht : fedBytes t = bs) (hbs : bs ≠ []) :
      run 1 (s.facing [t] []) = .next ((s.fed bs).facing [] []) := by
    subst ht
    exact run_of_step (step_facing_feed hs hbs) (run_zero _)
  have hstart (v : Half) :
      run 2 (s.facing (expandStart (some v)) []) = .next (((s.seeded v).controlled 0x1#32).facing [] []) :=
    run_facing_start hs 0 v
  refine ⟨⟨_, hctrl 0x1#32, rfl, rfl, rfl⟩, ⟨_, hctrl 0x2#32, rfl, rfl, rfl⟩, ⟨_, hctrl 0x3#32, rfl, rfl, rfl⟩,
    fun v => ⟨_, run_of_step (step_facing_setSeed hs) (run_zero _), rfl, rfl, rfl⟩,
    fun b => ⟨_, hfeed _ _ (fedBytes_feedTxn b) (List.cons_ne_nil _ _), rfl, rfl, rfl⟩,
    fun b0 b1 b2 b3 => ⟨_, hfeed _ _ (fedBytes_data32 b0 b1 b2 b3) (List.cons_ne_nil _ _), rfl, rfl, rfl⟩,
    fun v => ⟨_, hstart v, rfl, rfl, rfl⟩,
    ⟨_, hstart 0xFFFF#16, rfl, rfl, rfl⟩,
    fun v bs => ?_, fun v bs ts hts hbytes => ?_, ?_⟩
  · have hfeeds : ∀ u ∈ bs.map feedTxn, fedBytes u ≠ [] := by simp [fedBytes_feedTxn]
    have h := run_facing_start_feeds_latch hs v hfeeds
    rwa [List.length_map, flatMap_fedBytes_map_feedTxn] at h
  · have h := run_facing_start_feeds_latch hs v hts
    rwa [hbytes] at h
  · exact ⟨_, _, run_facing_getHdr hs, rfl, rfl, responseBytes_headerWords s⟩

end Sys2Proof.Machine
end
